-- ==== Sys2Proof/Word.lean ====
section
/-! DEFINITION. The two word types of the block (00_scope.md R7): a byte, bits 7 (most significant) to 0, and a nibble,
bits 3 to 0. Every other quantity is a count, a list or a name, and is no bit vector (10_state.md R13). -/

namespace Sys2Proof

/-- A byte: 8 bits, bit 7 the most significant (R7). -/
abbrev Byte := BitVec 8

/-- A nibble: 4 bits, numbered 3 down to 0 (R7). -/
abbrev Nibble := BitVec 4

end Sys2Proof
end

