-- ==== Sys2Proof/Config.lean ====
section
/-! DEFINITION. The constants of 00_scope.md R5, the configuration record of 10_state.md R24 with the caller's form of it,
and the free values: opaque constants with no body, of which no proof can see a value. -/

namespace Sys2Proof

/-- The frame decoder strategies, "selected at construction" (R5, R24, R141). -/
inductive Strategy
  | addressed
  | raw
  | encodedLine
  deriving DecidableEq, Repr

/-- The drain variants the spec names (40_fifo_drain.md R127). Only `framed` is admitted (R5, D13, D14). -/
inductive DrainVariant
  | framed
  | rawTriggered
  | strictFraming
  deriving DecidableEq, Repr

/-- The configuration record `cfg` (R24), once written. Its strategy is a name: code 3 was refused at the write. -/
structure Cfg where
  /-- `cfg.strategy`: which frame-decoder operation the attempt loop uses. -/
  strategy : Strategy
  /-- `cfg.empty_budget`, EMPTY_BUDGET, legal 1 to 255. -/
  emptyBudget : BitVec 8
  /-- `cfg.pause_us`, PAUSE in microseconds. -/
  pauseUs : BitVec 32
  /-- `cfg.reg_rxfifo`, REG_RXFIFO. -/
  regRxfifo : Byte
  /-- `cfg.reg_rxbytes`, REG_RXBYTES. -/
  regRxbytes : Byte
  /-- `cfg.cmd_flush`, CMD_FLUSH. -/
  cmdFlush : Byte
  deriving DecidableEq, Repr

/-- What the caller hands over when it writes the configuration record (R24, R265): the strategy by its 2-bit code, each
policy value or nothing (then its default), the three bus constants, and the drain variant it asks for (R127). -/
structure CfgWrite where
  variant : DrainVariant
  strategyCode : BitVec 2
  emptyBudget : Option (BitVec 8)
  pauseUs : Option (BitVec 32)
  regRxfifo : Byte
  regRxbytes : Byte
  cmdFlush : Byte
  deriving DecidableEq, Repr

namespace Config

/-- FIFO_CAPACITY (R5): the size of the radio's receive FIFO. -/
def fifoCapacity : Nat := 64

/-- TRAILER_LEN (R5): the bytes the radio appends after the declared payload. -/
def trailerLen : Nat := 2

/-- LEN_MAX (R5): the largest declared length. -/
def lenMax : Nat := 255

/-- BUF_MIN (R5): the least capacity the document asks of the accumulation buffer. -/
def bufMin : Nat := 259

/-- BUF_CAP (R5, R15): the capacity of the accumulation buffer. -/
def bufCap : Nat := 320

/-- RESERVE (R6, 70_reset_and_hazards.md R268): the bytes a partial chunk leaves in the FIFO, "a named policy constant". -/
def reserve : Nat := 1

/-- The default of EMPTY_BUDGET (R5). -/
def emptyBudgetDefault : BitVec 8 := 10

/-- The default of PAUSE in microseconds (R5, D11). -/
def pauseDefault : BitVec 32 := 2000

/-- PREAMBLE (R5): the fixed preamble of the encoded-line strategy. -/
def preamble : List Byte := [0x33, 0x55, 0x53]

/-- MARKER (R5): the fixed terminator byte of the encoded-line strategy. -/
def marker : Byte := 0x35

/-- RSSI_OFFSET (R5). -/
def rssiOffset : Int := 74

/-- SER_PAD_BIT (R5, 43_serial_codec.md R192): the fill bit of SER_ENC. -/
def serPadBit : Bool := false

/-- The default LINE_ENC_TABLE (30_encoding.md R76), nibbles 0x0 to 0xF. -/
def manchesterTable : Vector Byte 16 :=
  #v[0xAA, 0xA9, 0xA6, 0xA5, 0x9A, 0x99, 0x96, 0x95, 0x6A, 0x69, 0x66, 0x65, 0x5A, 0x59, 0x56, 0x55]

/-- HDR_OVF (R5, R73) as the list of the status bytes that "indicate overflow". UNVERIFIED: the spec gives no value, so
this is a free value. Safe (log 9). -/
opaque hdrOvfBytes : List Byte

/-- REG_RXFIFO of a configuration no caller has named (log 3). A free value, safe. -/
opaque regRxfifo : Byte

/-- REG_RXBYTES of a configuration no caller has named (log 3). A free value, safe. -/
opaque regRxbytes : Byte

/-- CMD_FLUSH of a configuration no caller has named (log 3). A free value, safe. -/
opaque cmdFlush : Byte

/-- Whether the radio's answer at a draw is a failure of the transport (20_memory.md R49). A free value, safe (log 6). -/
opaque freeFails : Nat → Bool

/-- The status byte of the radio's answer at a draw (R59). A free value, safe (log 6). -/
opaque freeStatus : Nat → Byte

/-- Data byte number `k` of the radio's answer at a draw (R57, R59). A free value, safe (log 6). -/
opaque freeByte : Nat → Nat → Byte

/-- Whether an edge arrives between the dummy read and the waking of the WAIT at a draw, given its timeout
(44_wait.md R212, R216). A free value, safe (log 8). -/
opaque freeEdge : Nat → Nat → Bool

/-- What the owner of the cancellation handle does to it while the WAIT at a draw blocks, given its timeout: nothing, or
sets it ready or not ready (R212, R215). A free value, safe (log 8). -/
opaque freeCancel : Nat → Nat → Option Bool

end Config

end Sys2Proof
end

