-- ==== Sys2Proof/Syntax.lean ====
section
/-! DEFINITION. The nine operations of the block (30_encoding.md R86), one constructor for each row of the operation table.
An operation has no operand field: "The operand of an operation is not in the command word" (R85). Operands are in the
caller's request and in the operand registers of State. -/

namespace Sys2Proof

/-- The operations of the block (R86). -/
inductive Instr
  /-- `LINE_ENC`, 0x10: line encode (42_line_codec.md R171). -/
  | lineEnc
  /-- `LINE_DEC`, 0x11: line decode (R174). -/
  | lineDec
  /-- `SER_ENC`, 0x20: serial encode (43_serial_codec.md R191). -/
  | serEnc
  /-- `SER_DEC`, 0x21: serial decode (R194). -/
  | serDec
  /-- `RECEIVE`, 0x30: drain one frame (40_fifo_drain.md R124). -/
  | receive
  /-- `FDEC_ADDR`, 0x40: addressed strategy (41_frame_decoder.md R143). -/
  | fdecAddr
  /-- `FDEC_RAW`, 0x41: raw strategy (R144). -/
  | fdecRaw
  /-- `FDEC_LINE`, 0x42: encoded-line strategy (R145). -/
  | fdecLine
  /-- `WAIT`, 0x50: wait for data ready, cancellation or timeout (44_wait.md R210). -/
  | wait
  deriving DecidableEq, Repr

end Sys2Proof
end

