-- ==== Sys2Proof/WellFormed.lean ====
section
/-! DEFINITION. The checks on what enters the block from outside: the configuration record the caller writes (10_state.md
R24) and the table parameter (30_encoding.md R77). An operation has no field, so every `Instr` is well formed; a command
byte that is none of the nine is refused by the decoder. -/

namespace Sys2Proof

/-- A configuration write is legal (R24, R127): the variant is the framed one, the strategy code is not 3, the budget is
not 0. -/
def CfgWrite.wf (w : CfgWrite) : Bool :=
  decide (w.variant = .framed) && decide (w.strategyCode ≠ 3) && decide (w.emptyBudget ≠ some 0)

/-- A written configuration record is legal (R24): the budget is 1 to 255. -/
def Cfg.wf (c : Cfg) : Bool := decide (c.emptyBudget ≠ 0)

/-- The number of 1 bits of a byte (00_scope.md R7). -/
def popcount (b : Byte) : Nat := ((List.range 8).filter fun i => b.getLsbD i).length

/-- The table is injective, R77 (b): "a unique 8-bit symbol". -/
def tableInjective (t : Vector Byte 16) : Bool := decide t.toList.Nodup

/-- Every symbol has weight 4, R77 (c): "balanced weight". -/
def tableBalanced (t : Vector Byte 16) : Bool := t.toList.all fun b => popcount b == 4

/-- What R77 asks of LINE_ENC_TABLE; its 16 entries, (a), are in the type. -/
def tableAdmissible (t : Vector Byte 16) : Bool := tableInjective t && tableBalanced t

end Sys2Proof
end

