-- ==== Sys2Proof/Machine/State.lean ====
section
/-! DEFINITION. Everything the spec gives the machine, as plain data (INVENTORY.md, "State"), the reasons a step can stop,
and the state after reset (10_state.md R28). -/

namespace Sys2Proof.Machine

/-- The drain unit's state register `st` (R14). -/
inductive DrainState
  | idle
  | hdr
  | query
  | read
  | pauseP
  | pauseE
  | flush
  | done
  | fault
  deriving DecidableEq, Repr

/-- The causes an operation can end with (60_exceptions.md R220). -/
inductive Cause
  | overflow
  | invalidLength
  | receiveTimeout
  | crcError
  | codecError
  | headerMismatch
  | markerNotFound
  | busFault
  deriving DecidableEq, Repr

/-- The outcome of WAIT (10_state.md R22, 44_wait.md R210). -/
inductive WaitOutcome
  | dataReady
  | timeout
  | cancelled
  deriving DecidableEq, Repr

/-- The record a frame decoder produces (R21). -/
structure DecodedFrame where
  payload : List Byte
  srcAddress : Byte
  destAddress : Byte
  rssiDbm : Int
  linkQuality : BitVec 7
  crcOk : Bool
  deriving DecidableEq, Repr

/-- What an operation that ended well gives back (30_encoding.md R86). -/
inductive Output
  | bytes (xs : List Byte)
  | frame (f : DecodedFrame)
  | outcome (o : WaitOutcome)
  deriving DecidableEq, Repr

/-- The result register `res` (R16). -/
inductive Result
  | ok (v : Output)
  | err (e : Cause)
  deriving DecidableEq, Repr

/-- An event of the bus trace (R19). `writeBurst` is the event of the one primitive that no operation uses
(20_memory.md R47). -/
inductive BusEvent
  | status (reg : Byte) (s : Byte)
  | burstRead (reg : Byte) (n : Nat) (s : Byte) (data : List Byte)
  | writeBurst (reg : Byte) (data : List Byte) (s : Byte)
  | strobe (cmd : Byte) (s : Byte)
  | pause (us : BitVec 32)
  | fault
  deriving DecidableEq, Repr

/-- What the radio answers to one bus primitive (20_memory.md R49, R59): a failure, or a status byte with data. A primitive
that returns no data uses the status byte alone. -/
inductive BusAnswer
  | fails
  | answers (status : Byte) (data : List Byte)
  deriving DecidableEq, Repr

/-- What happens on the two handles while one WAIT blocks (44_wait.md R212): whether an edge arrives after the dummy read,
and whether the owner of the cancellation handle sets it ready or not ready. -/
structure Wake where
  edge : Bool
  cancel : Option Bool
  deriving DecidableEq, Repr

/-- One transaction of the caller (10_state.md R10, decision D2): the write of the configuration record, or a command
word with its operands (30_encoding.md R85; an operation takes from them what it needs). -/
inductive Request
  | configure (w : CfgWrite)
  | command (word : Byte) (operand : List Byte) (timeout : Nat)
  deriving DecidableEq, Repr

/-- A byte memory as the list of the bytes that hold a value, by rising index; an index that is not listed holds no value
(R29). -/
abbrev Memory := List Host.Cell

/-- The machine's state. -/
structure State where
  /-- The parameter LINE_ENC_TABLE (00_scope.md R5). -/
  lineTable : Vector Byte 16
  /-- The parameter HDR_OVF as the list of the bytes it holds of (R5, R73). -/
  hdrOvfBytes : List Byte
  /-- The configuration record, not set after reset (R24, R28). -/
  cfg : Option Cfg
  /-- The drain unit's state register (R14). -/
  st : DrainState
  /-- The declared length (R12). -/
  len : Byte
  /-- `target_length` (R12). -/
  tgt : Nat
  /-- `current_length` (R12). -/
  cur : Nat
  /-- `available` (R12). -/
  avail : Nat
  /-- The count of consecutive empty observations (R12). -/
  empty : Nat
  /-- The number of bytes of the next burst read (R12). -/
  n : Nat
  /-- Whether this chunk completes the frame (R12, R18). -/
  last : Bool
  /-- The pending error (40_fifo_drain.md R103, R104, R108, R110). -/
  pending : Cause
  /-- The accumulation buffer (R15). -/
  buf : Memory
  /-- The result register (R16). -/
  res : Result
  /-- The bus trace of the operation in progress, or of the last one (R19). -/
  trace : List BusEvent
  /-- The operand list of the operation (20_memory.md R40). -/
  operand : List Byte
  /-- The operand of WAIT, in milliseconds (44_wait.md R216). -/
  timeout : Nat
  /-- What the caller has issued and the block has not taken (R10). -/
  requests : List Request
  /-- The latched edge of the interrupt source (60_exceptions.md R226). -/
  irqLatched : Bool
  /-- The cancellation handle is ready (44_wait.md R215). -/
  cancelReady : Bool
  /-- The radio's next answers; when the list is empty, free values answer (log 6). -/
  bus : List BusAnswer
  /-- What the next WAITs meet; when the list is empty, free values say (log 8). -/
  wakes : List Wake
  /-- The index of the next free value (logs 6 and 8). -/
  draws : Nat
  deriving DecidableEq, Repr

/-- Reasons a step stops with a fault. -/
inductive Fault
  /-- Raised by a write to the accumulation buffer outside its 320 indices (R15). The spec shows that it cannot happen
  (40_fifo_drain.md R117). Safe: the model stops. -/
  | bufOutOfRange (index : Nat)
  /-- Raised by a read of a byte of the accumulation buffer that holds no value (R29: "a model must not read it"). Safe: the
  model stops. -/
  | bufNoValue (index : Nat)
  deriving DecidableEq, Repr

/-- Reasons a step is refused: what the spec does not admit, with no state change. -/
inductive Refusal
  /-- Raised by exec alone, for an instruction that has no meaning yet. Safe. -/
  | notModelled (mnemonic : String)
  /-- Raised by step for a command word that is not in the operation table (30_encoding.md R87). Safe. -/
  | reservedCommand (word : Byte)
  /-- Raised by RECEIVE while the configuration is not set (70_reset_and_hazards.md R265). Safe. -/
  | cfgNotSet
  /-- Raised by every operation after a bus fault (60_exceptions.md R233). Safe. -/
  | dead
  /-- Raised by an operation started while a RECEIVE is in progress (R240). Safe. -/
  | busy
  /-- Raised by a configuration write when the record is already set (10_state.md R24: "then read-only"). Safe. -/
  | cfgAlreadySet
  /-- Raised by a configuration write with strategy code 3 (R24). Safe. -/
  | reservedStrategy
  /-- Raised by a configuration write with an empty-observation budget of 0 (R24). Safe. -/
  | zeroBudget
  /-- Raised by a configuration write that asks for another drain variant (40_fifo_drain.md R127). Safe. -/
  | variantNotAdmitted (v : DrainVariant)
  deriving DecidableEq, Repr

/-- The machine right after power-on reset (R28, 70_reset_and_hazards.md R260): `st` IDLE, the trace empty, `cfg` not set,
no byte of `buf` with a value. Every other register has the value of log 4, the parameters those of logs 9 and 10, the
outside those of logs 1, 6 and 8. -/
def State.reset : State :=
  { lineTable := Config.manchesterTable
    hdrOvfBytes := Config.hdrOvfBytes
    cfg := none
    st := .idle
    len := 0
    tgt := 0
    cur := 0
    avail := 0
    empty := 0
    n := 0
    last := false
    pending := .overflow
    buf := []
    res := .ok (.bytes [])
    trace := []
    operand := []
    timeout := 0
    requests := []
    irqLatched := false
    cancelReady := false
    bus := []
    wakes := []
    draws := 0 }

end Sys2Proof.Machine
end

