-- ==== Sys2Proof/Machine/Codes.lean ====
section
/-! DEFINITION. The numbers that the spec gives the names (10_state.md R14, R24; 44_wait.md R210; 60_exceptions.md R221)
and the classes of causes (R224). -/

namespace Sys2Proof.Machine

/-- The 4-bit code of a drain state (R14). -/
def stateCode : DrainState → BitVec 4
  | .idle => 0
  | .hdr => 1
  | .query => 2
  | .read => 3
  | .pauseP => 4
  | .pauseE => 5
  | .flush => 6
  | .done => 7
  | .fault => 8

/-- The 4-bit code of a cause (R221). -/
def causeCode : Cause → BitVec 4
  | .overflow => 1
  | .invalidLength => 2
  | .receiveTimeout => 3
  | .crcError => 4
  | .codecError => 5
  | .headerMismatch => 6
  | .markerNotFound => 7
  | .busFault => 8

/-- The 4-bit code of the result register (R221). -/
def resultCode : Result → BitVec 4
  | .ok _ => 0
  | .err e => causeCode e

/-- The code of a WAIT outcome (R210). -/
def outcomeCode : WaitOutcome → Nat
  | .dataReady => 0
  | .timeout => 1
  | .cancelled => 2

/-- The strategy of a 2-bit code; code 3 is reserved (R24). -/
def strategyOfCode (code : BitVec 2) : Option Strategy :=
  match code.toNat with
  | 0 => some .addressed
  | 1 => some .raw
  | 2 => some .encodedLine
  | _ => none

/-- The recoverable causes (R224): all but `BusFault`. -/
def recoverable : Cause → Bool
  | .overflow => true
  | .invalidLength => true
  | .receiveTimeout => true
  | .crcError => true
  | .codecError => true
  | .headerMismatch => true
  | .markerNotFound => true
  | .busFault => false

/-- The codec class (R224): what 7 of the document calls `CodecError`. -/
def codecClass : Cause → Bool
  | .overflow => false
  | .invalidLength => false
  | .receiveTimeout => false
  | .crcError => false
  | .codecError => true
  | .headerMismatch => true
  | .markerNotFound => true
  | .busFault => false

end Sys2Proof.Machine
end

