-- ==== Sys2Proof/Machine/Configure.lean ====
section
/-! DEFINITION. The write of the configuration record (10_state.md R24, 70_reset_and_hazards.md R265). -/

namespace Sys2Proof.Machine

/-- The record that a write sets, for a legal strategy: a policy value that is not given is its default (R24). -/
def cfgOf (strategy : Strategy) (w : CfgWrite) : Cfg :=
  { strategy := strategy
    emptyBudget := w.emptyBudget.getD Config.emptyBudgetDefault
    pauseUs := w.pauseUs.getD Config.pauseDefault
    regRxfifo := w.regRxfifo
    regRxbytes := w.regRxbytes
    cmdFlush := w.cmdFlush }

/-- The caller writes the configuration record: once (R24), for the framed variant only (40_fifo_drain.md R127), and
"an illegal value is refused when the record is written". -/
def configure (w : CfgWrite) (s : State) : Host.Outcome State Fault Refusal :=
  if s.cfg ≠ none then .refused .cfgAlreadySet
  else if w.variant ≠ .framed then .refused (.variantNotAdmitted w.variant)
  else
    match strategyOfCode w.strategyCode with
    | none => .refused .reservedStrategy
    | some strategy =>
      if (cfgOf strategy w).emptyBudget = 0 then .refused .zeroBudget
      else .next { s with cfg := some (cfgOf strategy w) }

end Sys2Proof.Machine
end

