-- ==== Sys2Proof/Machine/Operands.lean ====
section
/-! DEFINITION. How the operations read their operands: the nibbles of a byte (20_memory.md R51), bit sequences and their
order (R52, R53), the fields of the status byte and of the frame layouts (30_encoding.md R71 to R75, R82 to R84). -/

namespace Sys2Proof.Machine

/-- The high nibble, bits 7:4 (R51). -/
def hiNibble (b : Byte) : Nibble := b.extractLsb' 4 4

/-- The low nibble, bits 3:0 (R51). -/
def loNibble (b : Byte) : Nibble := b.extractLsb' 0 4

/-- The byte of two nibbles, `h * 16 + l` (R174). -/
def joinNibbles (h l : Nibble) : Byte := h ++ l

/-- The number whose bits, least significant first, are the list. -/
def natOfBitsLsb : List Bool → Nat
  | [] => 0
  | b :: bs => b.toNat + 2 * natOfBitsLsb bs

/-- The byte whose bits are the list, least significant first (R53). -/
def byteOfBitsLsb (bits : List Bool) : Byte := BitVec.ofNat 8 (natOfBitsLsb bits)

/-- The 8 bits of a byte, bit 0 first (R53). -/
def bitsLsb (b : Byte) : List Bool := (List.range 8).map fun i => b.getLsbD i

/-- The 8 bits of a byte, bit 7 first (R52). -/
def bitsMsb (b : Byte) : List Bool := (bitsLsb b).reverse

/-- The byte whose bits are the list, most significant first (R52). -/
def byteOfBitsMsb (bits : List Bool) : Byte := byteOfBitsLsb bits.reverse

/-- `flatten` (00_scope.md R7): the bit sequence of a byte list, most significant bit first. -/
def flatten (xs : List Byte) : List Bool := xs.flatMap bitsMsb

/-- `pack` (R7): the byte list of a bit sequence whose length is a multiple of 8. Bits after the last whole byte are not
reached: every caller fills up to a whole byte first. -/
def pack : List Bool → List Byte
  | b7 :: b6 :: b5 :: b4 :: b3 :: b2 :: b1 :: b0 :: rest => byteOfBitsMsb [b7, b6, b5, b4, b3, b2, b1, b0] :: pack rest
  | _ => []

/-- `available` of a bytes-available status byte: bits 6:0 (30_encoding.md R72, 40_fifo_drain.md R109). -/
def statusCount (s : Byte) : Nat := (s &&& 0x7F).toNat

/-- The target length of a declared length, `zext_9(L) + 2` (R71, 40_fifo_drain.md R106). -/
def targetLength (len : Byte) : Nat := len.toNat + Config.trailerLen

/-- Byte `i` of a list; the callers have checked that the list is long enough. -/
def byteAt (raw : List Byte) (i : Nat) : Byte := raw.getD i 0

/-- `raw[a .. b - 1]`: the bytes from index `a` up to, not with, index `b` (R7). -/
def slice (raw : List Byte) (a b : Nat) : List Byte := (raw.take b).drop a

/-- `rssi_raw`, the second-to-last byte (R75). -/
def rssiByte (raw : List Byte) : Byte := byteAt raw (raw.length - 2)

/-- The last byte: the CRC flag and the link quality (R75). -/
def lqiByte (raw : List Byte) : Byte := byteAt raw (raw.length - 1)

/-- Link quality, the low 7 bits (41_frame_decoder.md R149). -/
def linkQuality (b : Byte) : BitVec 7 := b.setWidth 7

/-- Signal strength (41_frame_decoder.md R150). Division by 2 of an integer is the arithmetic shift right by 1, the floor
(00_scope.md R7). -/
def rssiDbm (v : Byte) : Int :=
  if 128 ≤ v.toNat then ((v.toNat : Int) - 256) / 2 - Config.rssiOffset
  else (v.toNat : Int) / 2 - Config.rssiOffset

end Sys2Proof.Machine
end

