-- ==== Sys2Proof/Machine/Flags.lean ====
section
/-! DEFINITION. The one-bit conditions of 10_state.md R18. Only `last` is stored (a register of State); the others are
computed and consumed inside one operation. `invalid` is the missing value of `symbolValue` in LineCodec.lean. -/

namespace Sys2Proof.Machine

/-- `ovf`: bit 7 of the bytes-available status byte (R18, 30_encoding.md R72). -/
def ovfFlag (s : Byte) : Bool := s.getLsbD 7

/-- `hdr_ovf`: HDR_OVF of the status byte that accompanies the length-byte read (R18, 40_fifo_drain.md R104). -/
def hdrOvfFlag (hdrOvfBytes : List Byte) (s0 : Byte) : Bool := decide (s0 ∈ hdrOvfBytes)

/-- `last`: the tie-break comparison `cur + avail >= tgt` (R18, 40_fifo_drain.md R112). -/
def lastFlag (cur avail tgt : Nat) : Bool := decide (tgt ≤ cur + avail)

/-- `crc_ok`: bit 7 of the last byte (R18, 41_frame_decoder.md R148). -/
def crcFlag (b : Byte) : Bool := b.getLsbD 7

end Sys2Proof.Machine
end

