-- ==== Sys2Proof/Machine/Ops.lean ====
section
/-! DEFINITION. The shared operations: the accumulation buffer as a memory (20_memory.md R40, R41), the bus primitives (R44
to R49), starting and ending an operation (10_state.md R16, R19), and taking an error, which is this block's exception
entry (60_exceptions.md R230, R232, R233). There is no return from an error: nothing was saved (R234). -/

namespace Sys2Proof.Machine

/-! ## The accumulation buffer -/

/-- The indices rise strictly from above `k`. -/
def Memory.risesFrom (k : Nat) : Memory → Bool
  | [] => true
  | c :: rest => decide (k ≤ c.1) && Memory.risesFrom (c.1 + 1) rest

/-- The canonical form: the indices rise strictly. No entry can equal what an unlisted index reads as, since that is no
value (R29). -/
def Memory.wf (m : Memory) : Bool := Memory.risesFrom 0 m

/-- The value that a byte of the memory holds, if it holds one (R29). -/
def Memory.read : Memory → Nat → Option Byte
  | [], _ => none
  | (k, v) :: rest, a => if a = k then some v else Memory.read rest a

/-- The memory after one byte is stored. -/
def Memory.write : Memory → Nat → Byte → Memory
  | [], a, b => [(a, b)]
  | (k, v) :: rest, a, b =>
    if a < k then (a, b) :: (k, v) :: rest
    else if a = k then (a, b) :: rest
    else (k, v) :: Memory.write rest a b

/-- The memory after a byte list is stored from index `a` on. -/
def Memory.writeBytes : Memory → Nat → List Byte → Memory
  | m, _, [] => m
  | m, a, b :: bs => Memory.writeBytes (Memory.write m a b) (a + 1) bs

/-- The `count` bytes from index `a` on, or the first index among them that holds no value. -/
def Memory.readBytes (m : Memory) (a : Nat) : Nat → Except Nat (List Byte)
  | 0 => .ok []
  | count + 1 =>
    match Memory.read m a with
    | none => .error a
    | some b =>
      match Memory.readBytes m (a + 1) count with
      | .error i => .error i
      | .ok bs => .ok (b :: bs)

/-- `MemWrite(buf, at, bytes)` (00_scope.md R7), inside the 320 indices of the buffer (R15). -/
def memWrite (start : Nat) (d : List Byte) (s : State) : Except Fault State :=
  if start + d.length ≤ Config.bufCap then .ok { s with buf := Memory.writeBytes s.buf start d }
  else .error (.bufOutOfRange (start + d.length - 1))

/-- `MemRead(buf, at, n)` (R7). -/
def memRead (start count : Nat) (s : State) : Except Fault (List Byte) :=
  match Memory.readBytes s.buf start count with
  | .ok bs => .ok bs
  | .error i => .error (.bufNoValue i)

/-! ## The bus primitives -/

/-- The radio's answer to the next primitive: the next one of the script, or a free value (R59). -/
def nextAnswer (s : State) : BusAnswer :=
  match s.bus with
  | a :: _ => a
  | [] => if Config.freeFails s.draws then .fails else .answers (Config.freeStatus s.draws) []

/-- The state once that answer has been taken. -/
def answerTaken (s : State) : State := { s with bus := s.bus.tail, draws := s.draws + 1 }

/-- The data of a burst read of `count` bytes (R45: `len(d) = n`): the bytes the answer holds, then free bytes. -/
def burstData (count draw : Nat) (data : List Byte) : List Byte :=
  (List.range count).map fun k => data.getD k (Config.freeByte draw k)

/-- Append an event to the bus trace (10_state.md R19). -/
def record (e : BusEvent) (s : State) : State := { s with trace := s.trace ++ [e] }

/-- `BusStatus(reg)` (R44): the status byte, or nothing when the primitive fails (R49). -/
def busStatus (reg : Byte) (s : State) : Option Byte × State :=
  match nextAnswer s with
  | .fails => (none, record .fault (answerTaken s))
  | .answers b _ => (some b, record (.status reg b) (answerTaken s))

/-- `BusBurstRead(reg, n)` (R45): the accompanying status byte and `n` data bytes, or nothing when the primitive fails. -/
def busBurstRead (reg : Byte) (count : Nat) (s : State) : Option (Byte × List Byte) × State :=
  match nextAnswer s with
  | .fails => (none, record .fault (answerTaken s))
  | .answers b data =>
    (some (b, burstData count s.draws data),
      record (.burstRead reg count b (burstData count s.draws data)) (answerTaken s))

/-- `BusStrobe(cmd)` (R46): the status byte, or nothing when the primitive fails. -/
def busStrobe (cmd : Byte) (s : State) : Option Byte × State :=
  match nextAnswer s with
  | .fails => (none, record .fault (answerTaken s))
  | .answers b _ => (some b, record (.strobe cmd b) (answerTaken s))

/-- `BusWriteBurst(reg, bytes)` (R47): "exists in the interface. No operation of the block uses it". -/
def busWriteBurst (reg : Byte) (data : List Byte) (s : State) : Option Byte × State :=
  match nextAnswer s with
  | .fails => (none, record .fault (answerTaken s))
  | .answers b _ => (some b, record (.writeBurst reg data b) (answerTaken s))

/-- `Pause(t)` (R48): a trace event and nothing else. -/
def pauseFor (us : BitVec 32) (s : State) : State := record (.pause us) s

/-! ## Starting and ending an operation -/

/-- The trace of one operation starts empty (10_state.md R19). -/
def beginOp (s : State) : State := { s with trace := [] }

/-- The operation ends: `res` is written (R16). -/
def finish (r : Result) (s : State) : State := { s with res := r }

/-- Run an operation of one step: it starts with an empty trace when `st` is IDLE, is refused after a bus fault
(60_exceptions.md R233) and while a RECEIVE is in progress (R240). -/
def operate (body : State → State) (s : State) : Host.Outcome State Fault Refusal :=
  match s.st with
  | .idle => .next (body (beginOp s))
  | .fault => .refused .dead
  | .hdr => .refused .busy
  | .query => .refused .busy
  | .read => .refused .busy
  | .pauseP => .refused .busy
  | .pauseE => .refused .busy
  | .flush => .refused .busy
  | .done => .refused .busy

/-- The result register's value for bytes or a cause. -/
def bytesResult : Except Cause (List Byte) → Result
  | .ok xs => .ok (.bytes xs)
  | .error e => .err e

/-- The result register's value for a frame or a cause. -/
def frameResult : Except Cause DecodedFrame → Result
  | .ok f => .ok (.frame f)
  | .error e => .err e

/-! ## Taking an error -/

/-- The PendingFrame is dropped: no byte of `buf` holds a value (10_state.md R27: "discarded on completion, error, or
timeout"; R29). DEDUCED, safe (log 5). -/
def dropFrame (s : State) : State := { s with buf := [] }

/-- A recoverable drain error is met: it becomes the pending error and the unit goes to FLUSH (40_fifo_drain.md R123). -/
def raisePending (e : Cause) (s : State) : State := { s with pending := e, st := .flush }

/-- Entry for `BusFault` (40_fifo_drain.md R122, 60_exceptions.md R233): `res`, `st` FAULT, no flush. -/
def busFaultEntry (s : State) : State := finish (.err .busFault) (dropFrame { s with st := .fault })

/-- Entry for a recoverable drain error (60_exceptions.md R230): one flush strobe, the PendingFrame dropped, `res` the
pending error, `st` IDLE. A strobe that fails is a bus fault (R123). -/
def flushEntry (c : Cfg) (s : State) : State :=
  match busStrobe c.cmdFlush s with
  | (none, s') => busFaultEntry s'
  | (some _, s') => finish (.err s'.pending) (dropFrame { s' with st := .idle })

end Sys2Proof.Machine
end

