-- ==== Sys2Proof/Machine/Drain.lean ====
section
/-! DEFINITION. The drain unit (40_fifo_drain.md): RECEIVE starts it (R101) and each further step takes one transition of
R123, until the operation has ended. -/

namespace Sys2Proof.Machine

/-- A RECEIVE is in progress: `st` is neither IDLE nor FAULT (10_state.md R14). -/
def receiving : DrainState → Bool
  | .idle => false
  | .hdr => true
  | .query => true
  | .read => true
  | .pauseP => true
  | .pauseE => true
  | .flush => true
  | .done => true
  | .fault => false

/-- The start of a RECEIVE (R101). -/
def startReceive (s : State) : State :=
  { s with cur := 0, tgt := 0, empty := 0, last := false, buf := [], trace := [], st := .hdr }

/-- `RECEIVE` (R100, R101): the transition from IDLE to HDR. It reads the configuration, so it is refused while that is not
set (70_reset_and_hazards.md R265). -/
def execReceive (s : State) : Host.Outcome State Fault Refusal :=
  match s.cfg with
  | none => if s.st = .fault then .refused .dead else .refused .cfgNotSet
  | some _ => operate startReceive s

/-- HDR with the answer in hand: the zero test first (R103, R105), then HDR_OVF (R104), else the target (R106). -/
def afterHeader (s0 : Byte) (s : State) : State :=
  if s.len = 0 then raisePending .invalidLength s
  else if hdrOvfFlag s.hdrOvfBytes s0 then raisePending .overflow s
  else { s with tgt := targetLength s.len, st := .query }

/-- State HDR (R102): a burst read of one byte from the FIFO, which becomes `len`. -/
def drainHdr (c : Cfg) (s : State) : State :=
  match busBurstRead c.regRxfifo 1 s with
  | (none, s') => busFaultEntry s'
  | (some (s0, d), s') => afterHeader s0 { s' with len := byteAt d 0 }

/-- The empty observation (R110): counted, and either the budget is spent or the unit pauses. -/
def emptyObservation (c : Cfg) (s : State) : State :=
  if c.emptyBudget.toNat ≤ s.empty + 1 then raisePending .receiveTimeout { s with empty := s.empty + 1 }
  else { s with empty := s.empty + 1, st := .pauseE }

/-- The valid observation: the count of empties ends (R114) and the tie-break rule sets the chunk (R112). -/
def tieBreak (s : State) : State :=
  if lastFlag s.cur s.avail s.tgt then { s with empty := 0, n := s.avail, last := true, st := .read }
  else { s with empty := 0, n := s.avail - Config.reserve, last := false, st := .read }

/-- QUERY with the status byte in hand: overflow before anything else (R108), then the count (R109), an empty observation
(R110), a garbage observation, which changes nothing more (R111), or a valid one. -/
def afterStatus (c : Cfg) (b : Byte) (s : State) : State :=
  if ovfFlag b then raisePending .overflow s
  else if statusCount b = 0 then emptyObservation c { s with avail := statusCount b }
  else if Config.fifoCapacity < statusCount b then { s with avail := statusCount b }
  else tieBreak { s with avail := statusCount b }

/-- State QUERY (R107). -/
def drainQuery (c : Cfg) (s : State) : State :=
  match busStatus c.regRxbytes s with
  | (none, s') => busFaultEntry s'
  | (some b, s') => afterStatus c b s'

/-- After the chunk: DONE when it completed the frame, else the pause (R116, R118). -/
def afterChunk (s : State) : State := { s with st := if s.last then .done else .pauseP }

/-- The append of a chunk (R115). -/
def appendChunk (d : List Byte) (s : State) : Except Fault State :=
  match memWrite s.cur d s with
  | .error f => .error f
  | .ok s' => .ok { s' with cur := s'.cur + s'.n }

/-- State READ (R115): a burst read of `n` bytes and the append; no primitive when `n` is 0 (R113). The accompanying status
byte is ignored. -/
def drainRead (c : Cfg) (s : State) : Host.Outcome State Fault Refusal :=
  if s.n = 0 then .next (afterChunk s)
  else
    match busBurstRead c.regRxfifo s.n s with
    | (none, s') => .next (busFaultEntry s')
    | (some (_, d), s') =>
      match appendChunk d s' with
      | .error f => .fault f
      | .ok s'' => .next (afterChunk s'')

/-- States PAUSE_P and PAUSE_E (R110, R116). -/
def drainPause (c : Cfg) (s : State) : State := { pauseFor c.pauseUs s with st := .query }

/-- State DONE (R119): the accumulated bytes are the result, no bus primitive is issued, the PendingFrame is dropped. -/
def drainDone (s : State) : Host.Outcome State Fault Refusal :=
  match memRead 0 s.cur s with
  | .error f => .fault f
  | .ok bs => .next (finish (.ok (.bytes bs)) (dropFrame { s with st := .idle }))

/-- One transition of R123. With no configuration the unit cannot act (no run reaches that). -/
def drainStep (s : State) : Host.Outcome State Fault Refusal :=
  match s.cfg with
  | none => .refused .cfgNotSet
  | some c =>
    match s.st with
    | .idle => .next s
    | .hdr => .next (drainHdr c s)
    | .query => .next (drainQuery c s)
    | .read => drainRead c s
    | .pauseP => .next (drainPause c s)
    | .pauseE => .next (drainPause c s)
    | .flush => .next (flushEntry c s)
    | .done => drainDone s
    | .fault => .next s

end Sys2Proof.Machine
end

