-- ==== Sys2Proof/Machine/LineCodec.lean ====
section
/-! DEFINITION. The line codec (42_line_codec.md): LINE_ENC and LINE_DEC. Pure functions of the operand and of the table
(R170). -/

namespace Sys2Proof.Machine

/-- `ENC(v)`: the symbol of a nibble (R170). -/
def symbolOf (t : Vector Byte 16) (v : Nibble) : Byte := t.get v.toFin

/-- `DEC(s)`: the nibble whose symbol is `s`, or nothing when `s` is no symbol, which is the flag `invalid` (30_encoding.md
R78, 42_line_codec.md R173). On a table that is not injective, which R77 excludes, it is the least such nibble (log 19). -/
def symbolValue (t : Vector Byte 16) (s : Byte) : Option Nibble :=
  ((List.range 16).map fun k => BitVec.ofNat 4 k).find? fun v => symbolOf t v == s

/-- LINE_ENC as a function (R171): two symbols for each byte, high nibble first. -/
def lineEncode (t : Vector Byte 16) (x : List Byte) : List Byte :=
  x.flatMap fun b => [symbolOf t (hiNibble b), symbolOf t (loNibble b)]

/-- The decoding of the pairs of an even list, or nothing when a byte is no symbol (R174, R175). -/
def decodePairs (t : Vector Byte 16) : List Byte → Option (List Byte)
  | [] => some []
  | [_] => none
  | h :: l :: rest =>
    match symbolValue t h, symbolValue t l, decodePairs t rest with
    | some hv, some lv, some xs => some (joinNibbles hv lv :: xs)
    | _, _, _ => none

/-- LINE_DEC as a function (R174): an odd list fails before any byte is looked at (R176), and any byte that is no symbol
makes the whole operation fail (R175). -/
def lineDecode (t : Vector Byte 16) (y : List Byte) : Except Cause (List Byte) :=
  if y.length % 2 = 1 then .error .codecError
  else
    match decodePairs t y with
    | some x => .ok x
    | none => .error .codecError

/-- `LINE_ENC` (R171). -/
def execLineEnc (s : State) : Host.Outcome State Fault Refusal :=
  operate (fun s => finish (.ok (.bytes (lineEncode s.lineTable s.operand))) s) s

/-- `LINE_DEC` (R174). -/
def execLineDec (s : State) : Host.Outcome State Fault Refusal :=
  operate (fun s => finish (bytesResult (lineDecode s.lineTable s.operand)) s) s

end Sys2Proof.Machine
end

