-- ==== Sys2Proof/Machine/SerialCodec.lean ====
section
/-! DEFINITION. The serial codec (43_serial_codec.md): SER_ENC and SER_DEC. Pure functions of the operand (R190). -/

namespace Sys2Proof.Machine

/-- The 10-bit character of a byte: start bit 0, the data bits least significant first, stop bit 1 (30_encoding.md R80). -/
def serialChar (d : Byte) : List Bool := false :: (bitsLsb d ++ [true])

/-- Fill a bit sequence up to a whole number of bytes (R192). -/
def fillToByte (pad : Bool) (bits : List Bool) : List Bool := bits ++ List.replicate ((8 - bits.length % 8) % 8) pad

/-- SER_ENC as a function, with the fill bit as an argument (R191, R192). -/
def serEncode (pad : Bool) (x : List Byte) : List Byte := pack (fillToByte pad (x.flatMap serialChar))

/-- The data bytes of the complete characters of a bit sequence: positions 0 and 9 of each are stripped without being looked
at (R196), positions 1 to 8 are bits 0 to 7 (R194), an incomplete last character is dropped (R195). -/
def deframe : List Bool → List Byte
  | _ :: d0 :: d1 :: d2 :: d3 :: d4 :: d5 :: d6 :: d7 :: _ :: rest =>
    byteOfBitsLsb [d0, d1, d2, d3, d4, d5, d6, d7] :: deframe rest
  | _ => []

/-- SER_DEC as a function (R194). It never fails. -/
def serDecode (y : List Byte) : List Byte := deframe (flatten y)

/-- `SER_ENC` (R191). -/
def execSerEnc (s : State) : Host.Outcome State Fault Refusal :=
  operate (fun s => finish (.ok (.bytes (serEncode Config.serPadBit s.operand))) s) s

/-- `SER_DEC` (R194). -/
def execSerDec (s : State) : Host.Outcome State Fault Refusal :=
  operate (fun s => finish (.ok (.bytes (serDecode s.operand))) s) s

end Sys2Proof.Machine
end

