-- ==== Sys2Proof/Machine/FrameDecoder.lean ====
section
/-! DEFINITION. The frame decoder (41_frame_decoder.md): FDEC_ADDR, FDEC_RAW and FDEC_LINE. Pure functions of the operand
and, for FDEC_LINE, of the line-code table (R152). The order of the checks is that of R151. -/

namespace Sys2Proof.Machine

/-- MIN_ADDR (R142). -/
def minAddr : Nat := 4

/-- MIN_RAW (R142). -/
def minRaw : Nat := 2

/-- MIN_LINE (R142). -/
def minLine : Nat := 5

/-- The common validation: an unset CRC flag is `CrcError` (R148). -/
def checkCrc (raw : List Byte) (f : DecodedFrame) : Except Cause DecodedFrame :=
  if crcFlag (lqiByte raw) then .ok f else .error .crcError

/-- FDEC_ADDR as a function (R143). -/
def decodeAddr (raw : List Byte) : Except Cause DecodedFrame :=
  if raw.length < minAddr then .error .invalidLength
  else
    checkCrc raw
      { destAddress := byteAt raw 0
        srcAddress := byteAt raw 1
        payload := slice raw 2 (raw.length - 2)
        rssiDbm := rssiDbm (rssiByte raw)
        linkQuality := linkQuality (lqiByte raw)
        crcOk := true }

/-- FDEC_RAW as a function (R144): signal strength, link quality and addresses are reported as zero. -/
def decodeRaw (raw : List Byte) : Except Cause DecodedFrame :=
  if raw.length < minRaw then .error .invalidLength
  else
    checkCrc raw
      { destAddress := 0
        srcAddress := 0
        payload := slice raw 0 (raw.length - 2)
        rssiDbm := 0
        linkQuality := 0
        crcOk := true }

/-- The marker search (R146): the least index from 3 to `len - 3` whose byte is the marker. -/
def findMarker (raw : List Byte) : Option Nat :=
  (List.range (raw.length - 2)).find? fun i => decide (3 ≤ i) && byteAt raw i == Config.marker

/-- LINE_PIPELINE (30_encoding.md R90): serial decoding followed by line decoding (R147). -/
def linePipeline (t : Vector Byte 16) (region : List Byte) : Except Cause (List Byte) :=
  lineDecode t (serDecode region)

/-- FDEC_LINE as a function (R145). -/
def decodeLine (t : Vector Byte 16) (raw : List Byte) : Except Cause DecodedFrame :=
  if raw.length < minLine then .error .invalidLength
  else if slice raw 0 3 ≠ Config.preamble then .error .headerMismatch
  else
    match findMarker raw with
    | none => .error .markerNotFound
    | some m =>
      match linePipeline t (slice raw 3 m) with
      | .error e => .error e
      | .ok payload =>
        checkCrc raw
          { destAddress := 0
            srcAddress := 0
            payload := payload
            rssiDbm := rssiDbm (rssiByte raw)
            linkQuality := linkQuality (lqiByte raw)
            crcOk := true }

/-- `FDEC_ADDR` (R143). -/
def execFdecAddr (s : State) : Host.Outcome State Fault Refusal :=
  operate (fun s => finish (frameResult (decodeAddr s.operand)) s) s

/-- `FDEC_RAW` (R144). -/
def execFdecRaw (s : State) : Host.Outcome State Fault Refusal :=
  operate (fun s => finish (frameResult (decodeRaw s.operand)) s) s

/-- `FDEC_LINE` (R145). -/
def execFdecLine (s : State) : Host.Outcome State Fault Refusal :=
  operate (fun s => finish (frameResult (decodeLine s.lineTable s.operand)) s) s

end Sys2Proof.Machine
end

