-- ==== Sys2Proof/Machine/Wait.lean ====
section
/-! DEFINITION. The wait unit (44_wait.md): WAIT, and what the outside world does to the two handles between steps. -/

namespace Sys2Proof.Machine

/-- `IrqReadState()` (R211): the dummy read clears the latched edge; its value is discarded. -/
def irqReadState (s : State) : State := { s with irqLatched := false }

/-- What happens on the handles while this WAIT blocks: the next entry of the script, or free values. -/
def nextWake (s : State) : Wake :=
  match s.wakes with
  | w :: _ => w
  | [] => { edge := Config.freeEdge s.draws s.timeout, cancel := Config.freeCancel s.draws s.timeout }

/-- The handles as the unit sees them when it wakes (R210, R212): an edge latches and stays latched (60_exceptions.md R226);
the cancellation handle keeps its level unless its owner changed it (R215). -/
def wakeUp (w : Wake) (s : State) : State :=
  { s with
    irqLatched := s.irqLatched || w.edge
    cancelReady := w.cancel.getD s.cancelReady
    wakes := s.wakes.tail
    draws := s.draws + 1 }

/-- The outcome and its priority (R213): cancellation, then data ready, then timeout. -/
def waitOutcome (s : State) : WaitOutcome :=
  if s.cancelReady then .cancelled else if s.irqLatched then .dataReady else .timeout

/-- The body of WAIT (R210): the dummy read, the blocking, the outcome. -/
def waitBody (s : State) : State :=
  let woken := wakeUp (nextWake s) (irqReadState s)
  finish (.ok (.outcome (waitOutcome woken))) woken

/-- `WAIT` (R210). It ends in one step: there is no "wait for ever" value (R216), and `Timeout` is an outcome the
environment may give whenever neither handle is ready. -/
def execWait (s : State) : Host.Outcome State Fault Refusal := operate waitBody s

/-- Input from outside, between steps: an edge on the interrupt line latches (60_exceptions.md R226). -/
def latchEdge (s : State) : State := { s with irqLatched := true }

/-- Input from outside, between steps: the owner of the cancellation handle sets its level (R215). -/
def setCancel (level : Bool) (s : State) : State := { s with cancelReady := level }

end Sys2Proof.Machine
end

