-- ==== Sys2Proof/Machine/Dispatch.lean ====
section
/-! DEFINITION. One arm for each operation of 30_encoding.md R86. -/

namespace Sys2Proof.Machine

def exec (i : Instr) (s : State) : Host.Outcome State Fault Refusal :=
  match i with
  | .lineEnc => Sys2Proof.Machine.execLineEnc s
  | .lineDec => Sys2Proof.Machine.execLineDec s
  | .serEnc => Sys2Proof.Machine.execSerEnc s
  | .serDec => Sys2Proof.Machine.execSerDec s
  | .receive => Sys2Proof.Machine.execReceive s
  | .fdecAddr => Sys2Proof.Machine.execFdecAddr s
  | .fdecRaw => Sys2Proof.Machine.execFdecRaw s
  | .fdecLine => Sys2Proof.Machine.execFdecLine s
  | .wait => Sys2Proof.Machine.execWait s

end Sys2Proof.Machine
end

