-- ==== Sys2Proof/Decode.lean ====
section
/-! DEFINITION. The command word (30_encoding.md R85, R86): one byte, bits 7:4 the unit, bits 3:0 the function. The decoder
is total: a reserved word is rejected by name (R87). The encoder is written from the unit and function fields. -/

namespace Sys2Proof

/-- Why a command word has no operation. -/
inductive DecodeError
  /-- One of the 247 words that are not in the operation table (R87). -/
  | reservedCommand (word : Byte)
  deriving DecidableEq, Repr

/-- A row of the operation table: the words `w` with `w &&& mask = value` select `instr`. -/
structure OpRow where
  value : Byte
  mask : Byte
  instr : Instr
  deriving DecidableEq, Repr

/-- The operation table (R86). -/
def opTable : List OpRow :=
  [⟨0x10, 0xFF, .lineEnc⟩, ⟨0x11, 0xFF, .lineDec⟩, ⟨0x20, 0xFF, .serEnc⟩, ⟨0x21, 0xFF, .serDec⟩, ⟨0x30, 0xFF, .receive⟩,
   ⟨0x40, 0xFF, .fdecAddr⟩, ⟨0x41, 0xFF, .fdecRaw⟩, ⟨0x42, 0xFF, .fdecLine⟩, ⟨0x50, 0xFF, .wait⟩]

/-- The rows that a command word matches. -/
def matchingRows (w : Byte) : List OpRow := opTable.filter fun r => w &&& r.mask == r.value

/-- The operation a command word selects; every word outside the table is reserved (R86, R87). -/
def decode (w : Byte) : Except DecodeError Instr :=
  match matchingRows w with
  | r :: _ => .ok r.instr
  | [] => .error (.reservedCommand w)

/-- The unit field, bits 7:4 (R85): 1 line codec, 2 serial codec, 3 drain unit, 4 frame decoder, 5 wait unit. -/
def unitField : Instr → BitVec 4
  | .lineEnc => 1
  | .lineDec => 1
  | .serEnc => 2
  | .serDec => 2
  | .receive => 3
  | .fdecAddr => 4
  | .fdecRaw => 4
  | .fdecLine => 4
  | .wait => 5

/-- The function field, bits 3:0 (R85, R86). -/
def fnField : Instr → BitVec 4
  | .lineEnc => 0
  | .lineDec => 1
  | .serEnc => 0
  | .serDec => 1
  | .receive => 0
  | .fdecAddr => 0
  | .fdecRaw => 1
  | .fdecLine => 2
  | .wait => 0

/-- The command word of an operation (R85). -/
def encode (i : Instr) : Byte := unitField i ++ fnField i

/-- The command byte of a table word: the word's low `nbits` bits, every bit above them zero. -/
def tableByte (nbits w : Nat) : Byte := BitVec.ofNat 8 (w % 2 ^ nbits)

/-- The operation the decoder reads from a table word (one byte is the longest command). -/
def decodeTableWord (nbits w : Nat) : Option Instr :=
  match decode (tableByte nbits w) with
  | .ok i => some i
  | .error _ => none

end Sys2Proof
end

