-- ==== Sys2Proof/Machine/Fetch.lean ====
section
/-! DEFINITION. What the block does next: there is no program counter and no stored program (10_state.md R14), the next
operation is the one the caller has issued (R10). -/

namespace Sys2Proof.Machine

/-- What one step of the block is. -/
inductive Action
  /-- A RECEIVE is in progress: one transition of 40_fifo_drain.md R123. -/
  | advance
  /-- Nothing is issued: "nothing: no receive in progress" (R14). -/
  | rest
  /-- A write of the configuration record, in the state that has taken the request. -/
  | configure (w : CfgWrite) (s : State)
  /-- An operation, in the state that has taken the request and holds its operands. -/
  | run (i : Instr) (s : State)
  /-- A command word that is refused (30_encoding.md R87). -/
  | reject (r : Refusal)
  deriving DecidableEq, Repr

/-- The request is taken and its operands are placed in the operand registers. -/
def takeCommand (rest : List Request) (operand : List Byte) (timeout : Nat) (s : State) : State :=
  { s with requests := rest, operand := operand, timeout := timeout }

/-- The next action: an operation runs to its end before the next request is looked at (R10, 60_exceptions.md R235). -/
def nextAction (s : State) : Action :=
  if receiving s.st then .advance
  else
    match s.requests with
    | [] => .rest
    | .configure w :: rest => .configure w { s with requests := rest }
    | .command word operand timeout :: rest =>
      match decode word with
      | .ok i => .run i (takeCommand rest operand timeout s)
      | .error (.reservedCommand w) => .reject (.reservedCommand w)

/-- The caller issues one more request (R10). -/
def issue (r : Request) (s : State) : State := { s with requests := s.requests ++ [r] }

/-- Input from outside, at any time: the reset of the block (10_state.md R28). What is outside it is not reset by it
(70_reset_and_hazards.md R262): the handles, the radio's answers, what the caller has issued; nor are the parameters
(log 28). -/
def resetBlock (s : State) : State :=
  { State.reset with
    lineTable := s.lineTable
    hdrOvfBytes := s.hdrOvfBytes
    requests := s.requests
    irqLatched := s.irqLatched
    cancelReady := s.cancelReady
    bus := s.bus
    wakes := s.wakes
    draws := s.draws }

/-- A configuration with the default policy values and bus constants that no caller has named (log 3). -/
def bootCfg : Cfg :=
  { strategy := .addressed
    emptyBudget := Config.emptyBudgetDefault
    pauseUs := Config.pauseDefault
    regRxfifo := Config.regRxfifo
    regRxbytes := Config.regRxbytes
    cmdFlush := Config.cmdFlush }

/-- The block stands ready and the caller's next request is the command `word` with no operand bytes and timeout 0. A
RECEIVE in progress is left, and a configuration is in place, as it is before the first operation (70_reset_and_hazards.md
R265, R267). DESIGN CHOICE (log 3). -/
def placeCommand (word : Byte) (s : State) : State :=
  { s with
    st := if receiving s.st then .idle else s.st
    cfg := some (s.cfg.getD bootCfg)
    requests := .command word [] 0 :: s.requests }

end Sys2Proof.Machine
end

