-- ==== Sys2Proof/Machine/Step.lean ====
section
/-! DEFINITION. One step of the block: one operation that ends at once, or one transition of a RECEIVE (40_fifo_drain.md
R123), or a configuration write, or nothing when nothing is issued. -/

namespace Sys2Proof.Machine

/-- One step. -/
def step (s : State) : Host.Outcome State Fault Refusal :=
  match nextAction s with
  | .advance => drainStep s
  | .rest => .next s
  | .configure w s' => configure w s'
  | .run i s' => exec i s'
  | .reject r => .refused r

/-- The state in which the very next step takes the command of a table word and runs it (log 3). -/
def State.withFetchWord (s : State) (nbits w : Nat) : State := placeCommand (tableByte nbits w) s

end Sys2Proof.Machine
end

