-- ==== Sys2Proof/Machine/Caller.lean ====
section
/-! DEFINITION. The caller's loop (60_exceptions.md R243), the pseudo-operation ATTEMPT (30_encoding.md R90) repeated. "The
loop is the caller's, not the block's": the step does not call it. -/

namespace Sys2Proof.Machine

/-- Where the caller is in its loop: nothing is awaited, or the operation it has issued last. -/
inductive LoopPos
  | start
  | waited
  | received
  | decoded
  deriving DecidableEq, Repr

/-- What the caller does next. -/
inductive CallerMove
  /-- Issue a command and go on at a place of the loop. -/
  | issue (i : Instr) (operand : List Byte) (next : LoopPos)
  /-- Hand a frame to the sink and begin the next attempt. -/
  | deliver (f : DecodedFrame)
  /-- Leave the loop. -/
  | stop
  /-- The move needs what the block does not have: it is refused (70_reset_and_hazards.md R265). -/
  | refuse (r : Refusal)
  deriving DecidableEq, Repr

/-- The decoder operation of a strategy (41_frame_decoder.md R141). -/
def strategyInstr : Strategy → Instr
  | .addressed => .fdecAddr
  | .raw => .fdecRaw
  | .encodedLine => .fdecLine

/-- The move after a WAIT (44_wait.md R214). A result that is no outcome ends the loop. -/
def afterWait (r : Result) : CallerMove :=
  match r with
  | .ok (.outcome .dataReady) => .issue .receive [] .received
  | .ok (.outcome .timeout) => .issue .wait [] .waited
  | _ => .stop

/-- The move after a RECEIVE (R234, R243): a bus fault stops for good, another error starts the next attempt, and the bytes
go to the decoder that the configuration selects. "Until then every operation that reads `cfg` (`RECEIVE`, and the attempt
loop's choice of decoder) is refused" (70_reset_and_hazards.md R265). -/
def afterReceive (cfg : Option Cfg) (r : Result) : CallerMove :=
  match r, cfg with
  | .ok (.bytes raw), some c => .issue (strategyInstr c.strategy) raw .decoded
  | .ok (.bytes _), none => .refuse .cfgNotSet
  | .err .busFault, _ => .stop
  | .err _, _ => .issue .wait [] .waited
  | _, _ => .stop

/-- The move after a frame decoder (R155, R243): a frame goes to the sink, an error discards it. -/
def afterDecode (r : Result) : CallerMove :=
  match r with
  | .ok (.frame f) => .deliver f
  | .err _ => .issue .wait [] .waited
  | _ => .stop

/-- The caller's next move. -/
def callerMove (pos : LoopPos) (s : State) : CallerMove :=
  match pos with
  | .start => .issue .wait [] .waited
  | .waited => afterWait s.res
  | .received => afterReceive s.cfg s.res
  | .decoded => afterDecode s.res

/-- The block with its caller: the loop's place, the timeout of its WAITs, the frames handed to the sink. -/
structure Loop where
  pos : LoopPos
  timeout : Nat
  delivered : List DecodedFrame
  stopped : Bool
  block : State
  deriving DecidableEq, Repr

/-- The caller acts: it issues a command, hands over a frame, leaves the loop, or is refused. -/
def applyMove (m : CallerMove) (l : Loop) : Host.Outcome Loop Fault Refusal :=
  match m with
  | .issue i operand next =>
    .next { l with pos := next, block := issue (.command (encode i) operand l.timeout) l.block }
  | .deliver f => .next { l with pos := .start, delivered := l.delivered ++ [f] }
  | .stop => .next { l with stopped := true }
  | .refuse r => .refused r

/-- One step of the block with its caller: the block acts while it has something to do, then the caller. -/
def loopStep (l : Loop) : Host.Outcome Loop Fault Refusal :=
  if l.stopped then .next l
  else if receiving l.block.st || !l.block.requests.isEmpty then
    match step l.block with
    | .next s => .next { l with block := s }
    | .fault r => .fault r
    | .refused r => .refused r
  else applyMove (callerMove l.pos l.block) l

end Sys2Proof.Machine
end

