-- ==== Sys2Proof/Machine/ReceiveWhole.lean ====
section
/-! DEFINITION. RECEIVE as one piece of pseudocode (40_fifo_drain.md R124), beside the machine of R123: a function of the
radio's answers, with no state register. The step does not call it. "A model may use the pseudocode of rule R124 instead;
the two are the same machine" (decision D12) is a claim about the two. -/

namespace Sys2Proof.Machine

/-- How a RECEIVE ended: its result, the drain state it leaves, and its bus trace. -/
structure Ended where
  result : Result
  st : DrainState
  trace : List BusEvent
  deriving DecidableEq, Repr

/-- A bus primitive failed: the operation ends at once, without a flush (R122). -/
def endedByFault (trace : List BusEvent) : Ended := ⟨.err .busFault, .fault, trace ++ [.fault]⟩

/-- `flush_fail(E)` of R124. Nothing when the answers are used up. -/
def flushFail (c : Cfg) (e : Cause) (trace : List BusEvent) : List BusAnswer → Option Ended
  | [] => none
  | .fails :: _ => some (endedByFault trace)
  | .answers b _ :: _ => some ⟨.err e, .idle, trace ++ [.strobe c.cmdFlush b]⟩

/-- The loop of R124. `raw` is `buf[0 .. cur - 1]`, so its length is `cur`. Nothing when the answers are used up. -/
def receiveLoop (c : Cfg) (tgt : Nat) :
    List BusAnswer → (draw : Nat) → (raw : List Byte) → (empty : Nat) → (trace : List BusEvent) → Option Ended
  | [], _, _, _, _ => none
  | .fails :: _, _, _, _, trace => some (endedByFault trace)
  | .answers s _ :: more, draw, raw, empty, trace =>
    if s.getLsbD 7 then flushFail c .overflow (trace ++ [.status c.regRxbytes s]) more
    else if s &&& 0x7F = 0 then
      if c.emptyBudget.toNat ≤ empty + 1 then
        flushFail c .receiveTimeout (trace ++ [.status c.regRxbytes s]) more
      else
        receiveLoop c tgt more (draw + 1) raw (empty + 1) (trace ++ [.status c.regRxbytes s, .pause c.pauseUs])
    else if 64 < (s &&& 0x7F).toNat then
      receiveLoop c tgt more (draw + 1) raw empty (trace ++ [.status c.regRxbytes s])
    else if tgt ≤ raw.length + (s &&& 0x7F).toNat then
      match more with
      | [] => none
      | .fails :: _ => some (endedByFault (trace ++ [.status c.regRxbytes s]))
      | .answers b data :: _ =>
        let chunk := burstData (s &&& 0x7F).toNat (draw + 1) data
        some ⟨.ok (.bytes (raw ++ chunk)), .idle,
          trace ++ [.status c.regRxbytes s, .burstRead c.regRxfifo (s &&& 0x7F).toNat b chunk]⟩
    else if (s &&& 0x7F).toNat = 1 then
      receiveLoop c tgt more (draw + 1) raw 0 (trace ++ [.status c.regRxbytes s, .pause c.pauseUs])
    else
      match more with
      | [] => none
      | .fails :: _ => some (endedByFault (trace ++ [.status c.regRxbytes s]))
      | .answers b data :: more' =>
        let chunk := burstData ((s &&& 0x7F).toNat - 1) (draw + 1) data
        receiveLoop c tgt more' (draw + 2) (raw ++ chunk) 0
          (trace ++ [.status c.regRxbytes s, .burstRead c.regRxfifo ((s &&& 0x7F).toNat - 1) b chunk, .pause c.pauseUs])

/-- RECEIVE of R124 on a list of answers, the first of which is drawn as number `draw`. Nothing when the answers are used
up before the operation has ended. -/
def receiveWhole (c : Cfg) (hdrOvfBytes : List Byte) (answers : List BusAnswer) (draw : Nat) : Option Ended :=
  match answers with
  | [] => none
  | .fails :: _ => some (endedByFault [])
  | .answers s0 data :: more =>
    let chunk := burstData 1 draw data
    let trace := [.burstRead c.regRxfifo 1 s0 chunk]
    if byteAt chunk 0 = 0 then flushFail c .invalidLength trace more
    else if s0 ∈ hdrOvfBytes then flushFail c .overflow trace more
    else receiveLoop c ((byteAt chunk 0).toNat + 2) more (draw + 1) [] 0 trace

end Sys2Proof.Machine
end

