-- ==== Sys2Proof/Machine/RefEnv.lean ====
section
/-! DEFINITION. The reference environment of 20_memory.md R62: "for simulation and smoke tests only". It stands beside the
machine, which never reads it: it says which bus traces that environment gives. A claim may assume it by name. -/

namespace Sys2Proof.Machine

/-- The reference environment's state (R62): the queue, the overflow flag, the bytes still to arrive. -/
structure RefEnv where
  q : List Byte
  o : Bool
  incoming : List Byte
  deriving DecidableEq, Repr

/-- Its own step (R62): one byte arrives, or is dropped with `o` set when the queue is full. -/
def refArrive (e : RefEnv) : RefEnv :=
  match e.incoming with
  | [] => e
  | b :: more =>
    if e.q.length = Config.fifoCapacity then { e with o := true, incoming := more }
    else { e with q := e.q ++ [b], incoming := more }

/-- The environment after `k` of its own steps, which may run between any two primitives. -/
def refArrivals : Nat → RefEnv → RefEnv
  | 0, e => e
  | k + 1, e => refArrivals k (refArrive e)

/-- The status byte it answers (R62): `o * 128 + len(q)`. -/
def refStatus (e : RefEnv) : Byte := BitVec.ofNat 8 (e.o.toNat * 128 + e.q.length)

/-- Whether it gives this event, and its state afterwards. A burst read of more than it holds it refuses. -/
def refAccept (c : Cfg) (hdrOvfBytes : List Byte) (e : RefEnv) : BusEvent → Option RefEnv
  | .status reg s => if reg = c.regRxbytes ∧ s = refStatus e then some e else none
  | .burstRead reg n s data =>
    if reg = c.regRxfifo ∧ n ≤ e.q.length ∧ data = e.q.take n ∧ decide (s ∈ hdrOvfBytes) = e.o then
      some { e with q := e.q.drop n }
    else none
  | .writeBurst _ _ _ => none
  | .strobe cmd _ => if cmd = c.cmdFlush then some { e with q := [], o := false } else none
  | .pause _ => some e
  | .fault => none

/-- The environment after a whole trace, each event preceded by some arrivals; nothing when it does not give that trace. -/
def refAccepts (c : Cfg) (hdrOvfBytes : List Byte) : List (Nat × BusEvent) → RefEnv → Option RefEnv
  | [], e => some e
  | (k, ev) :: more, e =>
    match refAccept c hdrOvfBytes (refArrivals k e) ev with
    | some e' => refAccepts c hdrOvfBytes more e'
    | none => none

end Sys2Proof.Machine
end

