-- ==== Sys2Proof/Safety.lean ====
section
/-! DEFINITION. What a good state is: the invariant of the block (10_state.md R13, R17, 40_fifo_drain.md R117), which every
step keeps and under which no step ends in a fault. -/

namespace Sys2Proof.Machine

/-- The buffer holds values at exactly the indices below `cur` (R15). -/
abbrev BufExact (s : State) : Prop := s.buf.map Prod.fst = List.range s.cur

/-- The ranges of the working registers (R12, R13). -/
abbrev RegisterRanges (s : State) : Prop :=
  (s.tgt = 0 ∨ 3 ≤ s.tgt ∧ s.tgt ≤ 257) ∧ s.cur ≤ 319 ∧ s.avail ≤ 127 ∧ s.n ≤ 64 ∧
    (s.cfg = none → s.empty = 0) ∧ ∀ c ∈ s.cfg, s.empty ≤ c.emptyBudget.toNat

/-- The buffer as a memory: canonical, inside its 320 indices (R15), empty between operations (R27). -/
abbrev BufferInv (s : State) : Prop :=
  Memory.wf s.buf = true ∧ (∀ cell ∈ s.buf, cell.1 < Config.bufCap) ∧ (s.st = .idle ∨ s.st = .fault → s.buf = [])

/-- The configuration is legal when it is set, and set while a RECEIVE is in progress (R24, R265). -/
abbrev CfgInv (s : State) : Prop :=
  (∀ c ∈ s.cfg, c.wf = true) ∧ (receiving s.st = true → s.cfg ≠ none)

/-- At HDR nothing has been read (R101). -/
abbrev HdrInv (s : State) : Prop :=
  s.st = .hdr → s.cur = 0 ∧ s.tgt = 0 ∧ s.empty = 0 ∧ s.last = false ∧ s.buf = []

/-- At QUERY and in the pauses the frame lacks at least two bytes (R17, R117) and the budget is not spent (R110). -/
abbrev QueryInv (s : State) : Prop :=
  s.st = .query ∨ s.st = .pauseP ∨ s.st = .pauseE →
    3 ≤ s.tgt ∧ s.cur + 2 ≤ s.tgt ∧ BufExact s ∧ ∀ c ∈ s.cfg, s.empty < c.emptyBudget.toNat

/-- At READ the chunk is the one of the tie-break rule (R112). -/
abbrev ReadInv (s : State) : Prop :=
  s.st = .read →
    3 ≤ s.tgt ∧ s.cur + 2 ≤ s.tgt ∧ BufExact s ∧ 1 ≤ s.avail ∧ s.avail ≤ 64 ∧ s.empty = 0 ∧
      s.last = lastFlag s.cur s.avail s.tgt ∧ s.n = if s.last then s.avail else s.avail - 1

/-- At DONE the frame is complete, with at most 62 bytes too many (R17). -/
abbrev DoneInv (s : State) : Prop :=
  s.st = .done → 3 ≤ s.tgt ∧ s.tgt ≤ s.cur ∧ s.cur ≤ s.tgt + 62 ∧ BufExact s

/-- At FLUSH the pending error is one of the three recoverable ones (R120). -/
abbrev FlushInv (s : State) : Prop :=
  s.st = .flush → s.pending = .overflow ∨ s.pending = .invalidLength ∨ s.pending = .receiveTimeout

/-- `st` is FAULT exactly when the last result is `BusFault` (R122, 60_exceptions.md R233). -/
abbrev FaultInv (s : State) : Prop := s.st = .fault ↔ s.res = .err .busFault

/-- The invariant of the block. -/
abbrev BlockInv (s : State) : Prop :=
  RegisterRanges s ∧ BufferInv s ∧ CfgInv s ∧ HdrInv s ∧ QueryInv s ∧ ReadInv s ∧ DoneInv s ∧ FlushInv s ∧ FaultInv s

/-- The last byte of a list is there and its bit 7, the CRC flag, is set (41_frame_decoder.md R148). -/
abbrev LastByteFlagged (raw : List Byte) : Prop := ∃ b, raw.getLast? = some b ∧ b.getLsbD 7 = true

/-- A frame in the result register has its CRC flag set, and its signal strength is in the range of R150 or is the zero of
raw mode (R144). While no RECEIVE is in progress, so that the operand register still holds what the frame was decoded from,
that operand's last byte has its bit 7 set: the frame has passed the check of R148. -/
abbrev FrameChecked (s : State) : Prop :=
  ∀ f, s.res = .ok (.frame f) →
    f.crcOk = true ∧ (-138 ≤ f.rssiDbm ∧ f.rssiDbm ≤ -11 ∨ f.rssiDbm = 0) ∧
      (receiving s.st = false → LastByteFlagged s.operand)

/-- The outcome is a next state. -/
def completes (o : Host.Outcome State Fault Refusal) : Bool :=
  match o with
  | .next _ => true
  | .fault _ => false
  | .refused _ => false

/-- `k` steps of the machine. -/
def runSteps (k : Nat) (s : State) : Host.Outcome State Fault Refusal :=
  match k with
  | 0 => .next s
  | k + 1 =>
    match step s with
    | .next s' => runSteps k s'
    | .fault r => .fault r
    | .refused r => .refused r

/-- An operation and then `k` steps. -/
def execThenSteps (i : Instr) (k : Nat) (s : State) : Host.Outcome State Fault Refusal :=
  match exec i s with
  | .next s' => runSteps k s'
  | .fault r => .fault r
  | .refused r => .refused r

/-- The RECEIVE that begins in `s` is still in progress before each of the first `k` steps. -/
def receivingFor (k : Nat) (s : State) : Prop :=
  ∀ j, j < k → ∃ u, execThenSteps .receive j s = .next u ∧ receiving u.st = true

/-- An outcome with its next state changed. -/
def mapNext (f : State → State) (o : Host.Outcome State Fault Refusal) : Host.Outcome State Fault Refusal :=
  match o with
  | .next s => .next (f s)
  | .fault r => .fault r
  | .refused r => .refused r

/-- The operations that touch nothing but the result (10_state.md R20, 41_frame_decoder.md R152). -/
def pureOp : Instr → Bool
  | .lineEnc => true
  | .lineDec => true
  | .serEnc => true
  | .serDec => true
  | .receive => false
  | .fdecAddr => true
  | .fdecRaw => true
  | .fdecLine => true
  | .wait => false

/-- The number of flush strobes in a bus trace. -/
def strobeCount (trace : List BusEvent) : Nat :=
  (trace.filter fun e => match e with
    | .strobe _ _ => true
    | _ => false).length

/-- The strobes of the trace fit the state (40_fifo_drain.md R119, R120, R122; 41_frame_decoder.md R152): none while a
RECEIVE is in progress, after a success or after a bus fault, one after a recoverable drain error, no trace at all after a
decoder error. -/
abbrev StrobeInv (s : State) : Prop :=
  (receiving s.st = true ∨ s.st = .fault → strobeCount s.trace = 0) ∧
    (s.st = .idle → match s.res with
      | .ok _ => strobeCount s.trace = 0
      | .err .overflow => strobeCount s.trace = 1
      | .err .receiveTimeout => strobeCount s.trace = 1
      | .err .invalidLength => strobeCount s.trace = 1 ∨ s.trace = []
      | .err .busFault => False
      | .err _ => s.trace = [])

/-- An event that reads the FIFO is a burst read of 1 to 64 bytes that returned as many bytes (20_memory.md R45, R57), and
no event writes to the radio (R42, R47). -/
def eventLegal (e : BusEvent) : Bool :=
  match e with
  | .burstRead _ n _ data => decide (1 ≤ n) && decide (n ≤ 64) && decide (data.length = n)
  | .writeBurst _ _ _ => false
  | .status _ _ => true
  | .strobe _ _ => true
  | .pause _ => true
  | .fault => true

end Sys2Proof.Machine
end

