-- ==== Sys2Proof/Certificates/Slice0/Obligations.lean ====
section
/-! DEFINITION. The statements for the provers. Each docstring names the rule of spec/ that the statement formalises. A
statement about an operation gives the whole next state, so it is that operation's completion and its frame too. -/

open Sys2Proof Sys2Proof.Machine

/-! ## Encoding -/

/-- 30_encoding.md R86 (decision D34): the nine words of the operation table, each written out from its unit and
function fields. -/
def Obligations.CommandWordsDecodeAsTheTable : Prop :=
  decode 0b00010000 = .ok .lineEnc ∧ decode 0b00010001 = .ok .lineDec ∧ decode 0b00100000 = .ok .serEnc ∧
    decode 0b00100001 = .ok .serDec ∧ decode 0b00110000 = .ok .receive ∧ decode 0b01000000 = .ok .fdecAddr ∧
    decode 0b01000001 = .ok .fdecRaw ∧ decode 0b01000010 = .ok .fdecLine ∧ decode 0b01010000 = .ok .wait

/-- R85, R86 (decision D34): a word decodes to an operation exactly when it is that operation's word. -/
def Obligations.DecodeIsInverseOfEncode : Prop :=
  ∀ (i : Instr) (w : Byte), decode w = .ok i ↔ w = encode i

/-- R87 (decision D34): every command word outside the table, 247 of the 256, is refused by name, and the state does
not matter. -/
def Obligations.ReservedWordsAreRefused : Prop :=
  ((List.range 256).filter fun k => decodeTableWord 8 k = none).length = 247 ∧
    ∀ (w : Byte) (x : List Byte) (tm : Nat) (rest : List Request) (s : State),
      (∀ i, w ≠ encode i) → receiving s.st = false → s.requests = .command w x tm :: rest →
        step s = .refused (.reservedCommand w)

/-- 60_exceptions.md R221, 10_state.md R14, 44_wait.md R210 (decisions D35, D12): the numbers that the spec gives
results, drain states and outcomes, no result having a code above 8, and the classes of causes (R224). -/
def Obligations.CodesAreTheSpecsNumbers : Prop :=
  (∀ v, resultCode (.ok v) = 0) ∧
    [Cause.overflow, .invalidLength, .receiveTimeout, .crcError, .codecError, .headerMismatch, .markerNotFound,
      .busFault].map (fun e => resultCode (.err e)) = [1, 2, 3, 4, 5, 6, 7, 8] ∧
    (∀ r, (resultCode r).toNat ≤ 8) ∧
    [DrainState.idle, .hdr, .query, .read, .pauseP, .pauseE, .flush, .done, .fault].map stateCode =
      [0, 1, 2, 3, 4, 5, 6, 7, 8] ∧
    [WaitOutcome.dataReady, .timeout, .cancelled].map outcomeCode = [0, 1, 2] ∧
    (∀ e, recoverable e = true ↔ e ≠ .busFault) ∧
    ∀ e, codecClass e = true ↔ e = .codecError ∨ e = .headerMismatch ∨ e = .markerNotFound

/-! ## Steps -/

/-- 10_state.md R10, 30_encoding.md R85 (logs 1 and 2): when no RECEIVE is in progress and the caller's next request
is a command word that decodes to `i`, the step is `i` in the state that has taken the request with its operands. -/
def Obligations.StepRunsTheIssuedCommand : Prop :=
  ∀ (w : Byte) (x : List Byte) (tm : Nat) (rest : List Request) (i : Instr) (s : State),
    receiving s.st = false → s.requests = .command w x tm :: rest → decode w = .ok i →
      step s = exec i { s with requests := rest, operand := x, timeout := tm }

/-- 60_exceptions.md R235, 44_wait.md R215: while a RECEIVE is in progress a step looks at no request, no latched edge
and no cancellation: with other values there it does the same and leaves them as they are. -/
def Obligations.ReceiveIsNotPreemptible : Prop :=
  ∀ (s : State) (q : List Request) (edge cancel : Bool), receiving s.st = true →
    step { s with requests := q, irqLatched := edge, cancelReady := cancel } =
      mapNext (fun t => { t with requests := q, irqLatched := edge, cancelReady := cancel }) (step s)

/-- R215: a cancellation is seen only by WAIT. Every other operation does the same whether or not the handle is ready,
and a WAIT that finds the handle ready, its owner leaving it so, returns Cancelled. -/
def Obligations.CancellationIsSeenOnlyByWait : Prop :=
  (∀ (i : Instr) (s : State) (cancel : Bool), i ≠ .wait →
    exec i { s with cancelReady := cancel } = mapNext (fun t => { t with cancelReady := cancel }) (exec i s)) ∧
  (∀ (s : State) (cancel : Bool), receiving s.st = true →
    step { s with cancelReady := cancel } = mapNext (fun t => { t with cancelReady := cancel }) (step s)) ∧
  ∀ (s : State) (w : Wake) (more : List Wake), s.st = .idle → s.cancelReady = true → s.wakes = w :: more →
    w.cancel = none → ∃ t, exec .wait s = .next t ∧ t.res = .ok (.outcome .cancelled) ∧ t.cancelReady = true

/-- 20_memory.md R59: when the script of answers is used up, a step that takes an answer is the step on some answer.
What the free answer is rests on no value (log 6). -/
def Obligations.FreeAnswerIsSomeAnswer : Prop :=
  ∀ s : State, s.bus = [] → (s.st = .hdr ∨ s.st = .query ∨ s.st = .flush ∨ s.st = .read ∧ s.n ≠ 0) →
    ∃ a : BusAnswer, step s = step { s with bus := [a] }

/-- 10_state.md R11, R24: "nothing survives from one operation to the next except the configuration", which is
constant once written, as are the two parameters. -/
def Obligations.ConfigurationIsConstantOnceSet : Prop :=
  ∀ s t : State, step s = .next t →
    (∀ c, s.cfg = some c → t.cfg = some c) ∧ t.lineTable = s.lineTable ∧ t.hdrOvfBytes = s.hdrOvfBytes

/-- 10_state.md R16: `res` is written once, when the operation ends: not by the start of a RECEIVE, nor by a
transition after which it is still in progress. -/
def Obligations.ResultIsWrittenOnlyAtTheEnd : Prop :=
  ∀ s t : State,
    (exec .receive s = .next t → t.res = s.res) ∧
      (step s = .next t → receiving s.st = true → receiving t.st = true → t.res = s.res)

/-- 41_frame_decoder.md R152, 10_state.md R20: a codec or decoder operation that answers a next state changes nothing
but the result and the trace, which starts empty; every byte of the buffer reads as before; it runs in every state at
IDLE. -/
def Obligations.PureOperationsChangeOnlyTheResult : Prop :=
  ∀ (i : Instr) (s : State), pureOp i = true →
    (s.st = .idle → completes (exec i s) = true) ∧
      ∀ t, exec i s = .next t →
        t = { s with trace := [], res := t.res } ∧ ∀ a, Memory.read t.buf a = Memory.read s.buf a

/-! ## The line codec -/

/-- 42_line_codec.md R171. -/
def Obligations.LineEncodeGivesTwoSymbolsPerByte : Prop :=
  decode 0x10 = .ok .lineEnc ∧ ∀ s : State, s.st = .idle → ∃ y : List Byte,
    exec .lineEnc s = .next { s with trace := [], res := .ok (.bytes y) } ∧
      y.length = 2 * s.operand.length ∧
      ∀ (i : Nat) (b : Byte), s.operand[i]? = some b →
        y[2 * i]? = some (symbolOf s.lineTable (b.extractLsb' 4 4)) ∧
          y[2 * i + 1]? = some (symbolOf s.lineTable (b.extractLsb' 0 4))

/-- R174: on an even list of symbols. The table is injective, 30_encoding.md R77 (b). -/
def Obligations.LineDecodeOfSymbols : Prop :=
  ∀ s : State, s.st = .idle → tableInjective s.lineTable = true → s.operand.length % 2 = 0 →
    (∀ b ∈ s.operand, ∃ v, symbolOf s.lineTable v = b) → ∃ x : List Byte,
      exec .lineDec s = .next { s with trace := [], res := .ok (.bytes x) } ∧
        2 * x.length = s.operand.length ∧
        ∀ (i : Nat) (b : Byte), x[i]? = some b →
          s.operand[2 * i]? = some (symbolOf s.lineTable (b.extractLsb' 4 4)) ∧
            s.operand[2 * i + 1]? = some (symbolOf s.lineTable (b.extractLsb' 0 4))

/-- R175: with any byte that is no symbol, the result is `CodecError` and nothing else. -/
def Obligations.LineDecodeFailsAtomically : Prop :=
  ∀ s : State, s.st = .idle → (∃ b ∈ s.operand, ∀ v, symbolOf s.lineTable v ≠ b) →
    exec .lineDec s = .next { s with trace := [], res := .err .codecError }

/-- R176, decision D5: on a list of odd length the result is `CodecError`. -/
def Obligations.LineDecodeOfOddLengthFails : Prop :=
  ∀ s : State, s.st = .idle → s.operand.length % 2 = 1 →
    exec .lineDec s = .next { s with trace := [], res := .err .codecError }

/-- R177: LINE_DEC(LINE_ENC(x)) = Ok(x), for every admissible table. -/
def Obligations.LineDecodeOfLineEncodeIsIdentity : Prop :=
  ∀ s t : State, s.st = .idle → tableInjective s.lineTable = true → exec .lineEnc s = .next t →
    ∃ y, t.res = .ok (.bytes y) ∧
      exec .lineDec { t with operand := y } = .next { t with operand := y, res := .ok (.bytes s.operand) }

/-- R178: a list decodes successfully exactly when it is the encoding of something, and then of what it decodes to. -/
def Obligations.LineDecodesExactlyTheEncodings : Prop :=
  ∀ (s : State) (x : List Byte), s.st = .idle → tableInjective s.lineTable = true →
    (exec .lineDec s = .next { s with trace := [], res := .ok (.bytes x) } ↔
      exec .lineEnc { s with operand := x } =
        .next { s with operand := x, trace := [], res := .ok (.bytes s.operand) })

/-- 30_encoding.md R76, R77, R78: the default table has the Manchester symbols (each data bit, from bit 3 down,
becomes the pair `0 -> 10`, `1 -> 01`), it is admissible, and its inverse is the group form of R78 on all 256 bytes.
The table itself is the spec's default, not its source's (log 10). -/
def Obligations.DefaultTableIsTheManchesterTable : Prop :=
  State.reset.lineTable = Config.manchesterTable ∧ tableAdmissible Config.manchesterTable = true ∧
  (∀ (v : Nibble) (i : Nat), i < 4 →
    (symbolOf Config.manchesterTable v).getLsbD (2 * i + 1) = !v.getLsbD i ∧
      (symbolOf Config.manchesterTable v).getLsbD (2 * i) = v.getLsbD i) ∧
  ∀ (s : Byte) (v : Nibble),
    symbolValue Config.manchesterTable s = some v ↔
      (s.extractLsb' 4 4, v.extractLsb' 2 2) ∈ ([(0xA, 0), (0x9, 1), (0x6, 2), (0x5, 3)] : List (Nibble × BitVec 2)) ∧
        (s.extractLsb' 0 4, v.extractLsb' 0 2) ∈ ([(0xA, 0), (0x9, 1), (0x6, 2), (0x5, 3)] : List (Nibble × BitVec 2))

/-! ## The serial codec -/

/-- 20_memory.md R52 (decision D6): the flattened sequence is most significant bit first, `pack` is its inverse. -/
def Obligations.FlattenIsMostSignificantBitFirst : Prop :=
  (∀ (xs : List Byte) (i j : Nat) (b : Byte), xs[i]? = some b → j < 8 →
    (flatten xs)[8 * i + j]? = some (b.getLsbD (7 - j))) ∧
  (∀ xs : List Byte, pack (flatten xs) = xs) ∧
  ∀ bits : List Bool, bits.length % 8 = 0 → flatten (pack bits) = bits

/-- 43_serial_codec.md R191, R192, R193 (decisions D6, D7): the characters in order, start bit 0, data bits least
significant first, stop bit 1; fill bits 0; the length. -/
def Obligations.SerialEncodeFramesEachByte : Prop :=
  ∀ s : State, s.st = .idle → ∃ y : List Byte,
    exec .serEnc s = .next { s with trace := [], res := .ok (.bytes y) } ∧
      y.length = (5 * s.operand.length + 3) / 4 ∧
      (∀ (k : Nat) (b : Byte), s.operand[k]? = some b →
        (flatten y)[10 * k]? = some false ∧ (flatten y)[10 * k + 9]? = some true ∧
          ∀ i, i < 8 → (flatten y)[10 * k + 1 + i]? = some (b.getLsbD i)) ∧
      ∀ p, 10 * s.operand.length ≤ p → p < 8 * y.length → (flatten y)[p]? = some false

/-- R194, R195 (decision D6): the data bits of the complete characters, the incomplete last one dropped; SER_DEC never
fails. -/
def Obligations.SerialDecodeStripsEachCharacter : Prop :=
  ∀ s : State, s.st = .idle → ∃ x : List Byte,
    exec .serDec s = .next { s with trace := [], res := .ok (.bytes x) } ∧
      x.length = 4 * s.operand.length / 5 ∧
      ∀ (k i : Nat) (b : Byte), x[k]? = some b → i < 8 →
        (flatten s.operand)[10 * k + 1 + i]? = some (b.getLsbD i)

/-- R196 (decision D8): the start and stop bits are stripped without being looked at, and so are the bits after the
last complete character (R195): operands of one length that agree in every data bit of a complete character have one
result. -/
def Obligations.StartAndStopBitsAreIgnored : Prop :=
  ∀ (s : State) (z : List Byte), s.st = .idle → z.length = s.operand.length →
    (∀ k i, k < 8 * z.length / 10 → i < 8 →
      (flatten z)[10 * k + 1 + i]? = (flatten s.operand)[10 * k + 1 + i]?) →
    ∃ x, exec .serDec s = .next { s with trace := [], res := .ok (.bytes x) } ∧
      exec .serDec { s with operand := z } = .next { s with operand := z, trace := [], res := .ok (.bytes x) }

/-- R197: SER_DEC(SER_ENC(x)) = x for every byte list, and whatever the fill bit (R192). -/
def Obligations.SerialDecodeOfSerialEncodeIsIdentity : Prop :=
  (∀ s t : State, s.st = .idle → exec .serEnc s = .next t →
    ∃ y, t.res = .ok (.bytes y) ∧
      exec .serDec { t with operand := y } = .next { t with operand := y, res := .ok (.bytes s.operand) }) ∧
  ∀ (pad : Bool) (x : List Byte), serDecode (serEncode pad x) = x

/-! ## The frame decoder -/

/-- 41_frame_decoder.md R150 (decision D31): `floor(sext(v) / 2) - 74`, from -138 (attained at 0x80) to -11 (attained
at 0x7F). -/
def Obligations.SignalStrengthIsFloorOfHalf : Prop :=
  (∀ v : Byte, rssiDbm v = v.toInt / 2 - 74 ∧ -138 ≤ rssiDbm v ∧ rssiDbm v ≤ -11) ∧
    rssiDbm 0x80 = -138 ∧ rssiDbm 0x7F = -11

/-- R143, R142, R148, R149, R150 (decision D27; the rounding of the signal strength: decision D31): FDEC_ADDR of every
operand: shorter than 4 bytes, or destination, source, payload, RSSI byte, LQI byte. -/
def Obligations.AddressedFrameResult : Prop :=
  ∀ s : State, s.st = .idle →
    (s.operand.length < 4 → exec .fdecAddr s = .next { s with trace := [], res := .err .invalidLength }) ∧
      ∀ (dest src : Byte) (p : List Byte) (r q : Byte), s.operand = dest :: src :: (p ++ [r, q]) →
        (q.getLsbD 7 = false → exec .fdecAddr s = .next { s with trace := [], res := .err .crcError }) ∧
          (q.getLsbD 7 = true →
            exec .fdecAddr s = .next
              { s with
                trace := []
                res := .ok (.frame
                  { payload := p, srcAddress := src, destAddress := dest, rssiDbm := r.toInt / 2 - 74,
                    linkQuality := q.extractLsb' 0 7, crcOk := true }) })

/-- R144, R142, R148 (decisions D27, D32, D33): FDEC_RAW of every operand: shorter than 2 bytes, or payload, RSSI
byte, LQI byte. -/
def Obligations.RawFrameResult : Prop :=
  ∀ s : State, s.st = .idle →
    (s.operand.length < 2 → exec .fdecRaw s = .next { s with trace := [], res := .err .invalidLength }) ∧
      ∀ (p : List Byte) (r q : Byte), s.operand = p ++ [r, q] →
        (q.getLsbD 7 = false → exec .fdecRaw s = .next { s with trace := [], res := .err .crcError }) ∧
          (q.getLsbD 7 = true →
            exec .fdecRaw s = .next
              { s with
                trace := []
                res := .ok (.frame
                  { payload := p, srcAddress := 0, destAddress := 0, rssiDbm := 0, linkQuality := 0, crcOk := true }) })

/-- R145, R146, R147, R150 (decisions D28, D29, D33, D40, D42; the rounding of the signal strength: decision D31):
FDEC_LINE of a frame with the preamble and a marker: the region before the first marker goes through the serial decoder
and then the line decoder, the bytes after the marker are ignored, the CRC flag is looked at last (R151). -/
def Obligations.EncodedLineFrameResult : Prop :=
  ∀ (s : State) (region junk : List Byte) (r q : Byte), s.st = .idle → (0x35 : Byte) ∉ region →
    s.operand = [0x33, 0x55, 0x53] ++ region ++ [0x35] ++ junk ++ [r, q] →
      (∀ e, lineDecode s.lineTable (serDecode region) = .error e →
        exec .fdecLine s = .next { s with trace := [], res := .err e }) ∧
      (∀ p, lineDecode s.lineTable (serDecode region) = .ok p → q.getLsbD 7 = false →
        exec .fdecLine s = .next { s with trace := [], res := .err .crcError }) ∧
      ∀ p, lineDecode s.lineTable (serDecode region) = .ok p → q.getLsbD 7 = true →
        exec .fdecLine s = .next
          { s with
            trace := []
            res := .ok (.frame
              { payload := p, srcAddress := 0, destAddress := 0, rssiDbm := r.toInt / 2 - 74,
                linkQuality := q.extractLsb' 0 7, crcOk := true }) }

/-- R142, R145, R146, R151 (decisions D27, D28, D29): FDEC_LINE of every other operand: shorter than 5 bytes, another
preamble, or no marker from index 3 to `len - 3`. -/
def Obligations.EncodedLineFrameErrors : Prop :=
  ∀ s : State, s.st = .idle →
    (s.operand.length < 5 → exec .fdecLine s = .next { s with trace := [], res := .err .invalidLength }) ∧
      (5 ≤ s.operand.length → s.operand.take 3 ≠ [0x33, 0x55, 0x53] →
        exec .fdecLine s = .next { s with trace := [], res := .err .headerMismatch }) ∧
      ∀ (body : List Byte) (r q : Byte), (0x35 : Byte) ∉ body → s.operand = [0x33, 0x55, 0x53] ++ body ++ [r, q] →
        exec .fdecLine s = .next { s with trace := [], res := .err .markerNotFound }

/-- 43_serial_codec.md R201, 41_frame_decoder.md R145: what a sender encodes with LINE_ENC and SER_ENC and frames with
the preamble and the marker, FDEC_LINE gives back, when the encoded region happens to hold no marker byte (R154). The
fields of the frame and the order of the pipeline are decisions D31, D33, D40 and D42. -/
def Obligations.EncodedPayloadIsRecovered : Prop :=
  ∀ (s : State) (p junk : List Byte) (r q : Byte), s.st = .idle → tableInjective s.lineTable = true →
    (0x35 : Byte) ∉ serEncode Config.serPadBit (lineEncode s.lineTable p) → q.getLsbD 7 = true →
    s.operand =
      [0x33, 0x55, 0x53] ++ serEncode Config.serPadBit (lineEncode s.lineTable p) ++ [0x35] ++ junk ++ [r, q] →
    (serEncode Config.serPadBit (lineEncode s.lineTable p)).length = (5 * p.length + 1) / 2 ∧
    exec .fdecLine s = .next
      { s with
        trace := []
        res := .ok (.frame
          { payload := p, srcAddress := 0, destAddress := 0, rssiDbm := r.toInt / 2 - 74,
            linkQuality := q.extractLsb' 0 7, crcOk := true }) }

/-- R148, R150 (decision D31): a frame in the result register has passed the CRC check, bit 7 of the last byte of the
operand that it was decoded from being set, and its signal strength is in range: every step keeps it so. -/
def Obligations.FramesInTheResultPassedTheCheck : Prop :=
  ∀ s t : State, FrameChecked s → step s = .next t → FrameChecked t

/-! ## WAIT -/

/-- 44_wait.md R210, R211, R213: WAIT clears the latched edge, blocks, and reports what it finds: cancellation first,
then an edge since the dummy read, then the timeout. The edge latched before makes no difference. What happens on the
handles is the script's, or with the script used up a free value (log 8); the handle keeps its level (decision D38), and
the edge stays latched after DataReady (log 24). -/
def Obligations.WaitReportsByPriority : Prop :=
  (∀ s : State, s.st = .idle → ∃ w : Wake, (∀ w' more, s.wakes = w' :: more → w = w') ∧
    exec .wait s = .next
      { s with
        trace := []
        irqLatched := w.edge
        cancelReady := w.cancel.getD s.cancelReady
        wakes := s.wakes.tail
        draws := s.draws + 1
        res := .ok (.outcome
          (if w.cancel.getD s.cancelReady = true then .cancelled else if w.edge = true then .dataReady else .timeout)) }) ∧
  ∀ (s : State) (edge : Bool), exec .wait { s with irqLatched := edge } = exec .wait s

/-! ## RECEIVE -/

/-- 40_fifo_drain.md R101: RECEIVE starts from the values of R101 whatever the state held, and no byte of the buffer
holds a value. That the registers R101 does not write keep what they held is log 17. -/
def Obligations.ReceiveStartsAfresh : Prop :=
  ∀ (s : State) (c : Cfg), s.st = .idle → s.cfg = some c →
    exec .receive s = .next
      { s with cur := 0, tgt := 0, empty := 0, last := false, buf := [], trace := [], st := .hdr } ∧
    ∀ a, Memory.read [] a = none

/-- R102 to R106 (decisions D17, D26): the length byte is read with a burst read of one byte from the FIFO; the zero
test comes before HDR_OVF. -/
def Obligations.HeaderTransition : Prop :=
  ∀ (s : State) (c : Cfg) (s0 b : Byte) (data : List Byte) (rest : List BusAnswer),
    s.st = .hdr → s.cfg = some c → s.bus = .answers s0 (b :: data) :: rest →
    ∀ u : State, u = { s with bus := rest, draws := s.draws + 1, len := b,
                              trace := s.trace ++ [.burstRead c.regRxfifo 1 s0 [b]] } →
      (b = 0 → step s = .next { u with pending := .invalidLength, st := .flush }) ∧
        (b ≠ 0 → s0 ∈ s.hdrOvfBytes → step s = .next { u with pending := .overflow, st := .flush }) ∧
        (b ≠ 0 → s0 ∉ s.hdrOvfBytes → step s = .next { u with tgt := b.toNat + 2, st := .query })

/-- R107 to R112, R114 (decisions D18 to D20): the status byte is judged in the order of R123. -/
def Obligations.QueryTransition : Prop :=
  ∀ (s : State) (c : Cfg) (b : Byte) (data : List Byte) (rest : List BusAnswer) (a : Nat),
    s.st = .query → s.cfg = some c → s.bus = .answers b data :: rest → a = (b.extractLsb' 0 7).toNat →
    ∀ u : State, u = { s with bus := rest, draws := s.draws + 1, trace := s.trace ++ [.status c.regRxbytes b] } →
      (b.getLsbD 7 = true → step s = .next { u with pending := .overflow, st := .flush }) ∧
        (b.getLsbD 7 = false → a = 0 → c.emptyBudget.toNat ≤ s.empty + 1 →
          step s = .next { u with avail := 0, empty := s.empty + 1, pending := .receiveTimeout, st := .flush }) ∧
        (b.getLsbD 7 = false → a = 0 → s.empty + 1 < c.emptyBudget.toNat →
          step s = .next { u with avail := 0, empty := s.empty + 1, st := .pauseE }) ∧
        (b.getLsbD 7 = false → 64 < a → step s = .next { u with avail := a }) ∧
        (b.getLsbD 7 = false → 1 ≤ a → a ≤ 64 → s.tgt ≤ s.cur + a →
          step s = .next { u with avail := a, empty := 0, n := a, last := true, st := .read }) ∧
        (b.getLsbD 7 = false → 1 ≤ a → a ≤ 64 → s.cur + a < s.tgt →
          step s = .next { u with avail := a, empty := 0, n := a - 1, last := false, st := .read })

/-- R108: the overflow bit is looked at first; the receive ends with `Overflow` after one flush strobe. -/
def Obligations.OverflowBitEndsInOneFlush : Prop :=
  ∀ (s : State) (c : Cfg) (b f : Byte) (d e : List Byte) (rest : List BusAnswer),
    s.st = .query → s.cfg = some c → s.bus = .answers b d :: .answers f e :: rest → b.getLsbD 7 = true →
      ∃ u t, step s = .next u ∧ u.pending = .overflow ∧ u.st = .flush ∧ step u = .next t ∧ t.res = .err .overflow ∧
        t.st = .idle ∧ t.trace = s.trace ++ [.status c.regRxbytes b, .strobe c.cmdFlush f]

/-- R113, R115, R116 (decisions D21 to D23): the chunk is read in one burst and appended; nothing is issued for an
empty chunk; every byte of the buffer outside the chunk reads as before. -/
def Obligations.ReadTransition : Prop :=
  ∀ (s : State) (c : Cfg), s.st = .read → s.cfg = some c →
    (s.n = 0 → step s = .next { s with st := if s.last then .done else .pauseP }) ∧
      ∀ (b : Byte) (data : List Byte) (rest : List BusAnswer),
        s.n ≠ 0 → s.bus = .answers b data :: rest → data.length = s.n → s.cur + s.n ≤ 320 →
        ∃ t, step s = .next t ∧
          t = { s with bus := rest, draws := s.draws + 1, trace := s.trace ++ [.burstRead c.regRxfifo s.n b data],
                       buf := t.buf, cur := s.cur + s.n, st := if s.last then .done else .pauseP } ∧
          (∀ (i : Nat) (d : Byte), data[i]? = some d → Memory.read t.buf (s.cur + i) = some d) ∧
          (∀ a, a < s.cur ∨ s.cur + s.n ≤ a → Memory.read t.buf a = Memory.read s.buf a) ∧
          (Memory.wf s.buf = true → Memory.wf t.buf = true)

/-- R110, R116, 20_memory.md R48 (decision D18): a pause is a trace event and nothing else, then QUERY. -/
def Obligations.PauseTransition : Prop :=
  ∀ (s : State) (c : Cfg), s.st = .pauseP ∨ s.st = .pauseE → s.cfg = some c →
    step s = .next { s with trace := s.trace ++ [.pause c.pauseUs], st := .query }

/-- R120, 60_exceptions.md R230: one flush strobe, the pending error as the result, IDLE, and the frame dropped (log 5).
That the dead registers keep what they held is log 17. -/
def Obligations.FlushTransition : Prop :=
  ∀ (s : State) (c : Cfg) (b : Byte) (data : List Byte) (rest : List BusAnswer),
    s.st = .flush → s.cfg = some c → s.bus = .answers b data :: rest →
      step s = .next
        { s with bus := rest, draws := s.draws + 1, trace := s.trace ++ [.strobe c.cmdFlush b], res := .err s.pending,
                 st := .idle, buf := [] }

/-- R119 (decision D25): the accumulated bytes are the result; no bus primitive is issued. The buffer is dropped (log 5).
That the dead registers keep what they held is log 17. -/
def Obligations.DoneTransition : Prop :=
  ∀ (s : State) (c : Cfg) (bs : List Byte), s.st = .done → s.cfg = some c → bs.length = s.cur →
    (∀ i, i < s.cur → Memory.read s.buf i = bs[i]?) →
      step s = .next { s with res := .ok (.bytes bs), st := .idle, buf := [] }

/-- R122, R123 (decision D24): a failed primitive ends the operation at once, with no flush. The buffer is dropped
(log 5). That the dead registers keep what they held is log 17. -/
def Obligations.BusFaultEntersFault : Prop :=
  ∀ (s : State) (c : Cfg) (rest : List BusAnswer), s.cfg = some c → s.bus = .fails :: rest →
    (s.st = .hdr ∨ s.st = .query ∨ s.st = .flush ∨ s.st = .read ∧ s.n ≠ 0) →
      step s = .next
        { s with bus := rest, draws := s.draws + 1, trace := s.trace ++ [.fault], res := .err .busFault, st := .fault,
                 buf := [] }

/-- R122, 60_exceptions.md R233 (decision D24, log 13): FAULT is never left, its result stays, and every operation is
refused there. -/
def Obligations.FaultIsNeverLeft : Prop :=
  ∀ s : State, s.st = .fault →
    (∀ i, exec i s = .refused .dead) ∧ ∀ t, step s = .next t → t.st = .fault ∧ t.res = s.res

/-- R240, R10 (log 23): an operation started while a RECEIVE is in progress is refused. -/
def Obligations.ConcurrentOperationsAreRefused : Prop :=
  ∀ (i : Instr) (s : State), receiving s.st = true → (i = .receive → s.cfg ≠ none) → exec i s = .refused .busy

/-- 70_reset_and_hazards.md R265 (decision D36): RECEIVE is refused until the configuration is set; every other
operation of the block runs without it. -/
def Obligations.OnlyReceiveNeedsTheConfiguration : Prop :=
  ∀ s : State, s.st = .idle → s.cfg = none →
    exec .receive s = .refused .cfgNotSet ∧ ∀ i, i ≠ .receive → completes (exec i s) = true

/-- 10_state.md R24, 40_fifo_drain.md R127 (decisions D2, D11, D13): a legal write sets the record, with the default of
each policy value that is not given; an illegal value, another drain variant, or a second write is refused. What a second
write does, and which refusal is reported when several apply (the record that is set, then the variant, the strategy, the
budget), is the model's choice (log 14). -/
def Obligations.ConfigurationWrite : Prop :=
  ∀ (s : State) (w : CfgWrite) (rest : List Request),
    receiving s.st = false → s.requests = .configure w :: rest →
      (s.cfg ≠ none → step s = .refused .cfgAlreadySet) ∧
      (s.cfg = none → w.variant ≠ .framed → step s = .refused (.variantNotAdmitted w.variant)) ∧
      (s.cfg = none → w.variant = .framed → w.strategyCode = 3 → step s = .refused .reservedStrategy) ∧
      (s.cfg = none → w.variant = .framed → w.strategyCode ≠ 3 → w.emptyBudget = some 0 →
        step s = .refused .zeroBudget) ∧
      (s.cfg = none → w.variant = .framed → w.strategyCode ≠ 3 → w.emptyBudget ≠ some 0 →
        ∃ c, step s = .next { s with requests := rest, cfg := some c } ∧
          (w.strategyCode = 0 → c.strategy = .addressed) ∧ (w.strategyCode = 1 → c.strategy = .raw) ∧
          (w.strategyCode = 2 → c.strategy = .encodedLine) ∧
          c.emptyBudget = w.emptyBudget.getD 10 ∧ c.pauseUs = w.pauseUs.getD 2000 ∧
          c.regRxfifo = w.regRxfifo ∧ c.regRxbytes = w.regRxbytes ∧ c.cmdFlush = w.cmdFlush)

/-! ## RECEIVE as a whole -/

/-- R110 (decisions D18, D43): EMPTY_BUDGET consecutive empty observations, from none, end the operation with
`ReceiveTimeout` after one status read each, one pause fewer, and one flush strobe. That a primitive always answers is
70_reset_and_hazards.md R279 (log 7). -/
def Obligations.EmptyBudgetEndsInReceiveTimeout : Prop :=
  ∀ (s : State) (c : Cfg) (f : Byte) (rest : List BusAnswer),
    s.st = .query → s.cfg = some c → c.emptyBudget ≠ 0 → s.empty = 0 →
    s.bus = List.replicate c.emptyBudget.toNat (.answers 0 []) ++ .answers f [] :: rest →
      ∃ t, runSteps (2 * c.emptyBudget.toNat) s = .next t ∧ t.st = .idle ∧ t.res = .err .receiveTimeout ∧
        t.bus = rest ∧
        t.trace = s.trace ++
          (List.replicate (c.emptyBudget.toNat - 1) [.status c.regRxbytes 0, .pause c.pauseUs]).flatten ++
          [.status c.regRxbytes 0, .strobe c.cmdFlush f]

/-- R124, decision D12: when the pseudocode of R124, run on the script of answers, ends, the machine of R123 ends too,
with the same result, state and trace. -/
def Obligations.MachineEndsAsThePseudocode : Prop :=
  ∀ (s : State) (c : Cfg) (e : Ended), s.st = .idle → s.cfg = some c →
    receiveWhole c s.hdrOvfBytes s.bus s.draws = some e →
      ∃ k t, receivingFor k s ∧ execThenSteps .receive k s = .next t ∧ receiving t.st = false ∧
        t.res = e.result ∧ t.st = e.st ∧ t.trace = e.trace

/-- R124, D12, the other direction: when the machine has ended on answers of the script, the pseudocode has ended with
the same result, state and trace. -/
def Obligations.PseudocodeEndsAsTheMachine : Prop :=
  ∀ (s : State) (c : Cfg) (k : Nat) (t : State), s.st = .idle → s.cfg = some c →
    receivingFor k s → execThenSteps .receive k s = .next t → receiving t.st = false →
    t.draws ≤ s.draws + s.bus.length →
      receiveWhole c s.hdrOvfBytes s.bus s.draws = some ⟨t.res, t.st, t.trace⟩

/-- 10_state.md R27, 70_reset_and_hazards.md R261: no state leaks between packets. Two blocks with one configuration
and one environment, whatever else they hold, run RECEIVE alike, to the same result. -/
def Obligations.NoStateLeaksBetweenPackets : Prop :=
  ∀ (s₁ s₂ : State) (c : Cfg), s₁.st = .idle → s₂.st = .idle → s₁.cfg = some c → s₂.cfg = some c →
    s₁.hdrOvfBytes = s₂.hdrOvfBytes → s₁.bus = s₂.bus → s₁.draws = s₂.draws →
    ∀ (k : Nat) (t₁ : State), receivingFor k s₁ → execThenSteps .receive k s₁ = .next t₁ →
      ∃ t₂, execThenSteps .receive k s₂ = .next t₂ ∧ t₂.st = t₁.st ∧ t₂.trace = t₁.trace ∧ t₂.buf = t₁.buf ∧
        t₂.cur = t₁.cur ∧ t₂.tgt = t₁.tgt ∧ t₂.empty = t₁.empty ∧ t₂.bus = t₁.bus ∧ t₂.draws = t₁.draws ∧
        (receiving t₁.st = false → t₂.res = t₁.res)

/-- R125 (decisions D19 to D21): RECEIVE need not terminate: (a) on garbage for ever, (b) on a count of exactly 1 for
ever, (c) on 0 and 1 alternating, the unit is back in QUERY with nothing gained, after any number of answers. -/
def Obligations.ReceiveNeedNotTerminate : Prop :=
  ∀ (s : State) (c : Cfg) (k : Nat), s.st = .query → s.cfg = some c →
    (∀ g : Byte, g.getLsbD 7 = false → 64 < g.toNat → s.bus = List.replicate k (.answers g []) →
      ∃ t, runSteps k s = .next t ∧ t.st = .query ∧ t.cur = s.cur ∧ t.empty = s.empty ∧ t.bus = []) ∧
    (s.cur + 1 < s.tgt → s.bus = List.replicate k (.answers 1 []) →
      ∃ t, runSteps (3 * k) s = .next t ∧ t.st = .query ∧ t.cur = s.cur ∧ (1 ≤ k → t.empty = 0) ∧ t.bus = []) ∧
    (s.cur + 1 < s.tgt → s.empty = 0 → 2 ≤ c.emptyBudget.toNat →
      s.bus = (List.replicate k [.answers 0 [], .answers 1 []]).flatten →
      ∃ t, runSteps (5 * k) s = .next t ∧ t.st = .query ∧ t.cur = s.cur ∧ t.empty = 0 ∧ t.bus = [])

/-- R273: with an assumption about the radio RECEIVE ends: here every status byte shows 2 to 64 bytes and no overflow,
and no primitive fails. That a primitive always answers is 70_reset_and_hazards.md R279 (log 7). -/
def Obligations.ReceiveEndsWhenEveryAnswerShowsData : Prop :=
  ∀ (s : State) (c : Cfg), s.st = .idle → s.cfg = some c → 520 ≤ s.bus.length →
    (∀ a ∈ s.bus, ∃ b data, a = .answers b data ∧ b.getLsbD 7 = false ∧ 2 ≤ b.toNat ∧ b.toNat ≤ 64) →
      ∃ k t, k ≤ 800 ∧ receivingFor k s ∧ execThenSteps .receive k s = .next t ∧ t.st = .idle

/-! ## Invariants -/

/-- 10_state.md R28, 70_reset_and_hazards.md R260, R262 (decision D36): what reset leaves, as far as the spec gives
it, and that a later reset of the block leaves the handles, the radio and the parameters as they are (log 28). -/
def Obligations.ResetLeavesTheSpecsValues : Prop :=
  (∀ s, s = State.reset ∨ (∃ u, s = resetBlock u) →
    s.st = .idle ∧ s.trace = [] ∧ s.cfg = none ∧ ∀ a, Memory.read s.buf a = none) ∧
  ∀ s, (resetBlock s).irqLatched = s.irqLatched ∧ (resetBlock s).cancelReady = s.cancelReady ∧
    (resetBlock s).bus = s.bus ∧ (resetBlock s).wakes = s.wakes ∧ (resetBlock s).lineTable = s.lineTable ∧
    (resetBlock s).hdrOvfBytes = s.hdrOvfBytes

/-- The invariants hold after reset; the register values there are the model's choice (log 4). -/
def Obligations.InvariantHoldsAtReset : Prop :=
  BlockInv State.reset ∧ StrobeInv State.reset ∧ FrameChecked State.reset

/-- 10_state.md R13, R17, 40_fifo_drain.md R117: every step keeps the invariant of the block. -/
def Obligations.EveryStepKeepsTheInvariant : Prop :=
  ∀ s t : State, BlockInv s → step s = .next t → BlockInv t

/-- R117, R29: no step ends in a fault: no write leaves the buffer and no byte without a value is read. -/
def Obligations.NoStepFaults : Prop :=
  ∀ (s : State) (f : Fault), BlockInv s → step s ≠ .fault f

/-- R13, R17: no register write overflows its width; at QUERY the frame is incomplete; at DONE it is complete with at
most 62 bytes too many, and with none when the completing chunk offers no more than the frame still needs. -/
def Obligations.RegistersStayInRange : Prop :=
  ∀ s t : State, BlockInv s → step s = .next t →
    (t.tgt < 2 ^ 9 ∧ t.cur < 2 ^ 9 ∧ t.avail < 2 ^ 7 ∧ t.empty < 2 ^ 8 ∧ t.n < 2 ^ 7 ∧ t.tgt ≤ 257 ∧ t.cur ≤ 319) ∧
      (t.st = .query → t.cur < t.tgt) ∧
      (t.st = .done → t.tgt ≤ t.cur ∧ t.cur ≤ t.tgt + 62) ∧
      (s.st = .read → t.st = .done → s.avail ≤ s.tgt - s.cur → t.cur = t.tgt)

/-- R119, R120, R122: the flush strobes of a trace: exactly one after a recoverable drain error, none in any other
trace. -/
def Obligations.ExactlyOneFlushOnRecoverableErrors : Prop :=
  ∀ s t : State, BlockInv s → StrobeInv s → step s = .next t → StrobeInv t

/-- 20_memory.md R45, R57, R42: every burst read asks for 1 to 64 bytes and returns as many, and nothing is ever
written to the radio. -/
def Obligations.BusTraceIsLegal : Prop :=
  ∀ s t : State, BlockInv s → (∀ e ∈ s.trace, eventLegal e = true) → step s = .next t → ∀ e ∈ t.trace, eventLegal e = true

/-- 20_memory.md R57: with the reference environment of R62 in charge of the status answer, the burst read that
follows asks for no more than that environment holds, however many bytes arrive meanwhile. -/
def Obligations.TruthfulStatusNeverUnderflows : Prop :=
  ∀ (s t : State) (e : RefEnv) (data : List Byte) (rest : List BusAnswer) (k : Nat),
    s.st = .query → s.cfg ≠ none → e.q.length ≤ 64 → s.bus = .answers (refStatus e) data :: rest →
    step s = .next t → t.st = .read → t.n ≤ (refArrivals k e).q.length

/-! ## The caller -/

/-- 60_exceptions.md R243, 44_wait.md R214, 41_frame_decoder.md R141, 70_reset_and_hazards.md R265 (log 20, decision
D36): what the caller does after WAIT, RECEIVE and a decoder. `cfg.strategy` names the decoder; with no configuration that
choice is refused. -/
def Obligations.CallerFollowsTheLoop : Prop :=
  (∀ (s : State) (raw : List Byte),
    callerMove .start s = .issue .wait [] .waited ∧
    (s.res = .ok (.outcome .dataReady) → callerMove .waited s = .issue .receive [] .received) ∧
    (s.res = .ok (.outcome .timeout) → callerMove .waited s = .issue .wait [] .waited) ∧
    (s.res = .ok (.outcome .cancelled) → callerMove .waited s = .stop) ∧
    (s.res = .err .busFault → callerMove .received s = .stop) ∧
    (∀ e, e ≠ .busFault → s.res = .err e → callerMove .received s = .issue .wait [] .waited) ∧
    (∀ c, s.cfg = some c → s.res = .ok (.bytes raw) →
      (c.strategy = .addressed → callerMove .received s = .issue .fdecAddr raw .decoded) ∧
        (c.strategy = .raw → callerMove .received s = .issue .fdecRaw raw .decoded) ∧
        (c.strategy = .encodedLine → callerMove .received s = .issue .fdecLine raw .decoded)) ∧
    (∀ f, s.res = .ok (.frame f) → callerMove .decoded s = .deliver f) ∧
    ∀ e, s.res = .err e → callerMove .decoded s = .issue .wait [] .waited) ∧
  ∀ (l : Loop) (raw : List Byte), l.stopped = false → receiving l.block.st = false → l.block.requests = [] →
    l.pos = .received → l.block.res = .ok (.bytes raw) → l.block.cfg = none → loopStep l = .refused .cfgNotSet

/-- 41_frame_decoder.md R148, R155 (log 20): a step of the block with its caller hands over at most one frame, the one in
the result register, and only when bit 7 of the last byte of the operand that it was decoded from is set. -/
def Obligations.OnlyCheckedFramesAreDelivered : Prop :=
  ∀ l l' : Loop, FrameChecked l.block → loopStep l = .next l' →
    FrameChecked l'.block ∧
      (l'.delivered = l.delivered ∨
        ∃ f, l'.delivered = l.delivered ++ [f] ∧ l.block.res = .ok (.frame f) ∧ f.crcOk = true ∧
          LastByteFlagged l.block.operand) ∧
      ((∀ f ∈ l.delivered, f.crcOk = true) → ∀ f ∈ l'.delivered, f.crcOk = true)
end

