-- ==== Sys2Proof/Laws/Caller.lean ====
section
/-! SUPPORT. What the caller of the block can do (60_exceptions.md R243): when it hands a frame over, and what one step of
the block with its caller can be. -/

namespace Sys2Proof.Machine

/-- The caller hands over the frame in the result register and no other. -/
theorem callerMove_deliver {pos : LoopPos} {s : State} {f : DecodedFrame} (h : callerMove pos s = .deliver f) :
    s.res = .ok (.frame f) := by
  unfold callerMove at h
  split at h
  · cases h
  · unfold afterWait at h
    split at h <;> cases h
  · unfold afterReceive at h
    split at h <;> cases h
  · unfold afterDecode at h
    split at h <;> cases h
    assumption

/-- Everything a step of the block with its caller that answers a next state can be: nothing once it has stopped, a step of
the block, or a move of the caller while the block has nothing to do. -/
theorem loopStep_cases {l l' : Loop} (h : loopStep l = .next l') :
    l' = l ∨ (∃ s, step l.block = .next s ∧ l' = { l with block := s }) ∨
      (receiving l.block.st = false ∧ l.block.requests = [] ∧ applyMove (callerMove l.pos l.block) l = .next l') := by
  unfold loopStep at h
  split at h
  · exact .inl (Host.Outcome.next.inj h).symm
  · split at h
    · split at h <;> cases h
      next s hs => exact .inr (.inl ⟨s, hs, rfl⟩)
    · next hn =>
      simp only [Bool.or_eq_true, Bool.not_eq_true', not_or, Bool.not_eq_true, Bool.not_eq_false,
        List.isEmpty_iff] at hn
      exact .inr (.inr ⟨hn.1, hn.2, h⟩)

end Sys2Proof.Machine
end

