-- ==== Sys2Proof/Laws/Codec.lean ====
section
/-! SUPPORT. The small laws of the codecs' building blocks: nibbles, bit sequences, the symbol table, serial characters. -/

namespace Sys2Proof.Machine

/-! ## Nibbles -/

theorem join_hi_lo (b : Byte) : joinNibbles (hiNibble b) (loNibble b) = b := by
  revert b; decide

theorem hi_join (h l : Nibble) : hiNibble (joinNibbles h l) = h := by
  revert h l; decide

theorem lo_join (h l : Nibble) : loNibble (joinNibbles h l) = l := by
  revert h l; decide

/-! ## Bit sequences -/

@[simp] theorem length_bitsLsb (b : Byte) : (bitsLsb b).length = 8 := by simp [bitsLsb]

@[simp] theorem length_bitsMsb (b : Byte) : (bitsMsb b).length = 8 := by simp [bitsMsb]

@[simp] theorem length_serialChar (b : Byte) : (serialChar b).length = 10 := by simp [serialChar]

theorem natOfBitsLsb_lt : ∀ bits : List Bool, natOfBitsLsb bits < 2 ^ bits.length
  | [] => by simp [natOfBitsLsb]
  | b :: bs => by
    have := natOfBitsLsb_lt bs
    cases b <;> simp only [natOfBitsLsb, List.length_cons, Nat.pow_succ, Bool.toNat_true, Bool.toNat_false] <;> omega

theorem testBit_natOfBitsLsb : ∀ (bits : List Bool) (i : Nat), (natOfBitsLsb bits).testBit i = bits.getD i false
  | [], i => by simp [natOfBitsLsb]
  | b :: bs, 0 => by
    cases b <;> simp [natOfBitsLsb, Nat.testBit_zero]
  | b :: bs, i + 1 => by
    have hdiv : natOfBitsLsb (b :: bs) / 2 = natOfBitsLsb bs := by
      cases b <;> simp only [natOfBitsLsb, Bool.toNat_true, Bool.toNat_false] <;> omega
    rw [Nat.testBit_succ, hdiv, testBit_natOfBitsLsb bs i]
    rfl

/-- Bit `i` of the byte is element `i` of the list. -/
theorem getLsbD_byteOfBitsLsb {bits : List Bool} {i : Nat} (hi : i < 8) :
    (byteOfBitsLsb bits).getLsbD i = bits.getD i false := by
  rw [byteOfBitsLsb, BitVec.getLsbD_ofNat, testBit_natOfBitsLsb, decide_eq_true hi, Bool.true_and]

@[simp] theorem byteOfBitsLsb_bitsLsb (b : Byte) : byteOfBitsLsb (bitsLsb b) = b := by
  apply BitVec.eq_of_getLsbD_eq
  intro i hi
  rw [getLsbD_byteOfBitsLsb hi]
  simp [bitsLsb, hi]

theorem bitsLsb_byteOfBitsLsb {bits : List Bool} (h : bits.length = 8) : bitsLsb (byteOfBitsLsb bits) = bits := by
  apply List.ext_getElem (by simp [h])
  intro i h1 h2
  have hi : i < 8 := by simpa using h1
  simp [bitsLsb, getLsbD_byteOfBitsLsb hi, h2]

@[simp] theorem byteOfBitsMsb_bitsMsb (b : Byte) : byteOfBitsMsb (bitsMsb b) = b := by
  simp [byteOfBitsMsb, bitsMsb]

theorem bitsMsb_byteOfBitsMsb {bits : List Bool} (h : bits.length = 8) : bitsMsb (byteOfBitsMsb bits) = bits := by
  simp [byteOfBitsMsb, bitsMsb, bitsLsb_byteOfBitsLsb (bits := bits.reverse) (by simpa using h)]

@[simp] theorem flatten_nil : flatten [] = [] := rfl

@[simp] theorem flatten_cons (b : Byte) (xs : List Byte) : flatten (b :: xs) = bitsMsb b ++ flatten xs := by
  simp [flatten]

@[simp] theorem length_flatten : ∀ xs : List Byte, (flatten xs).length = 8 * xs.length
  | [] => rfl
  | b :: xs => by simp [length_flatten xs]; omega

/-- Packing goes on after each whole byte. -/
theorem pack_append {bits : List Bool} (rest : List Bool) (h : bits.length = 8) :
    pack (bits ++ rest) = byteOfBitsMsb bits :: pack rest := by
  match bits, h with
  | [_, _, _, _, _, _, _, _], _ => rfl

theorem pack_flatten : ∀ xs : List Byte, pack (flatten xs) = xs
  | [] => rfl
  | b :: xs => by rw [flatten_cons, pack_append _ (length_bitsMsb b), byteOfBitsMsb_bitsMsb, pack_flatten xs]

/-- `flatten` undoes `pack` on a whole number of bytes (00_scope.md R7). -/
theorem flatten_pack : ∀ {k : Nat} {bits : List Bool}, bits.length = 8 * k → flatten (pack bits) = bits
  | 0, [], _ => rfl
  | k + 1, bits, h => by
    have h8 : (bits.take 8).length = 8 := by simp; omega
    have hd : (bits.drop 8).length = 8 * k := by simp; omega
    conv_lhs => rw [← List.take_append_drop 8 bits]
    rw [pack_append _ h8, flatten_cons, bitsMsb_byteOfBitsMsb h8, flatten_pack hd, List.take_append_drop]

theorem length_pack : ∀ {k : Nat} {bits : List Bool}, bits.length = 8 * k → (pack bits).length = k
  | 0, [], _ => rfl
  | k + 1, bits, h => by
    have h8 : (bits.take 8).length = 8 := by simp; omega
    have hd : (bits.drop 8).length = 8 * k := by simp; omega
    rw [← List.take_append_drop 8 bits, pack_append _ h8, List.length_cons, length_pack hd]

/-! ## Serial characters -/

/-- A character in front of a bit sequence decodes to its byte (43_serial_codec.md R194). -/
theorem deframe_serialChar (b : Byte) (rest : List Bool) : deframe (serialChar b ++ rest) = b :: deframe rest := by
  have h : serialChar b ++ rest =
      false :: b.getLsbD 0 :: b.getLsbD 1 :: b.getLsbD 2 :: b.getLsbD 3 :: b.getLsbD 4 :: b.getLsbD 5 :: b.getLsbD 6 ::
        b.getLsbD 7 :: true :: rest := by
    simp [serialChar, bitsLsb, List.range_succ]
  rw [h, deframe]
  congr 1
  conv_rhs => rw [← byteOfBitsLsb_bitsLsb b]
  rfl

/-- Fewer bits than a character are dropped (R195). -/
theorem deframe_short {bits : List Bool} (h : bits.length < 10) : deframe bits = [] := by
  match bits, h with
  | [], _ | [_], _ | [_, _], _ | [_, _, _], _ | [_, _, _, _], _ | [_, _, _, _, _], _ | [_, _, _, _, _, _], _
  | [_, _, _, _, _, _, _], _ | [_, _, _, _, _, _, _, _], _ | [_, _, _, _, _, _, _, _, _], _ => rfl

/-- The fill makes a whole number of bytes (R192). -/
theorem length_fillToByte (pad : Bool) (bits : List Bool) :
    (fillToByte pad bits).length = 8 * ((bits.length + 7) / 8) := by
  simp [fillToByte]; omega

/-! ## The symbol table -/

/-- A symbol's value encodes back to the symbol (42_line_codec.md R173). -/
theorem symbolOf_of_symbolValue {t : Vector Byte 16} {s : Byte} {v : Nibble} (h : symbolValue t s = some v) :
    symbolOf t v = s := by
  simpa using List.find?_some h

theorem nibble_mem (v : Nibble) : v ∈ (List.range 16).map fun k => BitVec.ofNat 4 k := by
  revert v; decide

/-- On an injective table every symbol decodes to its nibble (R173, 30_encoding.md R77). -/
theorem symbolValue_symbolOf {t : Vector Byte 16} (ht : tableInjective t = true) (v : Nibble) :
    symbolValue t (symbolOf t v) = some v := by
  unfold symbolValue
  cases hf : ((List.range 16).map fun k => BitVec.ofNat 4 k).find? fun w => symbolOf t w == symbolOf t v with
  | none =>
    have := List.find?_eq_none.1 hf v (nibble_mem v)
    simp at this
  | some w =>
    have hw : symbolOf t w = symbolOf t v := by simpa using List.find?_some hf
    have hn : t.toList.Nodup := by simpa [tableInjective] using ht
    have hinj : w.toFin = v.toFin := by
      have h1 : t.toList[w.toNat]'(by simp [w.isLt]) = t.toList[v.toNat]'(by simp [v.isLt]) := by
        simpa [symbolOf, Vector.get] using hw
      exact Fin.ext ((hn.getElem_inj_iff).1 h1)
    rw [BitVec.eq_of_toFin_eq hinj]

/-- A byte that is no symbol has no value. -/
theorem symbolValue_eq_none {t : Vector Byte 16} {s : Byte} : symbolValue t s = none ↔ ∀ v, symbolOf t v ≠ s := by
  unfold symbolValue
  rw [List.find?_eq_none]
  constructor
  · intro h v hv
    exact h v (nibble_mem v) (by simpa using hv)
  · intro h v _ hv
    exact h v (by simpa using hv)

/-- The default table satisfies 30_encoding.md R77. -/
theorem manchesterTable_admissible : tableAdmissible Config.manchesterTable = true := by decide

/-! ## Errors and the CRC flag -/

/-- The line decoder has one error (42_line_codec.md R174). -/
theorem lineDecode_error {t : Vector Byte 16} {y : List Byte} {e : Cause} (h : lineDecode t y = .error e) :
    e = .codecError := by
  unfold lineDecode at h
  split at h
  · cases h
    rfl
  · split at h <;> cases h
    rfl

/-- `lqiByte` is the last byte of a list that has one (30_encoding.md R75). -/
theorem getLast?_eq_lqiByte {raw : List Byte} (h : 0 < raw.length) : raw.getLast? = some (lqiByte raw) := by
  have hlt : raw.length - 1 < raw.length := by omega
  simp [List.getLast?_eq_getElem?, lqiByte, byteAt, List.getElem?_eq_getElem hlt]

/-- What the CRC check can do (41_frame_decoder.md R148). -/
theorem checkCrc_cases (raw : List Byte) (f : DecodedFrame) :
    ((lqiByte raw).getLsbD 7 = true ∧ checkCrc raw f = .ok f) ∨
      ((lqiByte raw).getLsbD 7 = false ∧ checkCrc raw f = .error .crcError) := by
  unfold checkCrc crcFlag
  cases h : (lqiByte raw).getLsbD 7 with
  | true => exact .inl ⟨rfl, rfl⟩
  | false => exact .inr ⟨rfl, rfl⟩

end Sys2Proof.Machine
end

