-- ==== Sys2Proof/Laws/Memory.lean ====
section
/-! SUPPORT. The laws of the accumulation buffer as a memory: every operation keeps the canonical form, a read after a
write, and what appending to a buffer that is written up to an index does. -/

namespace Sys2Proof.Machine

/-! ## The canonical form -/

theorem risesFrom_mono {j k : Nat} (h : j ≤ k) : ∀ {m : Memory}, m.risesFrom k = true → m.risesFrom j = true
  | [], _ => rfl
  | c :: rest, hm => by
    simp only [Memory.risesFrom, Bool.and_eq_true, decide_eq_true_eq] at hm ⊢
    exact ⟨by omega, hm.2⟩

theorem risesFrom_write {k a : Nat} {b : Byte} (ha : k ≤ a) :
    ∀ {m : Memory}, m.risesFrom k = true → (m.write a b).risesFrom k = true
  | [], _ => by simp [Memory.write, Memory.risesFrom, ha]
  | (i, v) :: rest, hm => by
    simp only [Memory.risesFrom, Bool.and_eq_true, decide_eq_true_eq] at hm
    unfold Memory.write
    split
    · next h =>
      simp only [Memory.risesFrom, Bool.and_eq_true, decide_eq_true_eq]
      exact ⟨ha, by omega, hm.2⟩
    · split
      · next h1 h2 =>
        subst h2
        simp only [Memory.risesFrom, Bool.and_eq_true, decide_eq_true_eq]
        exact ⟨ha, hm.2⟩
      · simp only [Memory.risesFrom, Bool.and_eq_true, decide_eq_true_eq]
        exact ⟨hm.1, risesFrom_write (by omega) hm.2⟩

theorem wf_nil : Memory.wf [] = true := rfl

theorem wf_write {m : Memory} {a : Nat} {b : Byte} (h : m.wf = true) : (m.write a b).wf = true :=
  risesFrom_write (Nat.zero_le a) h

theorem wf_writeBytes : ∀ {d : List Byte} {m : Memory} {a : Nat}, m.wf = true → (m.writeBytes a d).wf = true
  | [], _, _, h => h
  | _ :: bs, _, _, h => wf_writeBytes (d := bs) (wf_write h)

/-- The buffer after reset is in canonical form. -/
theorem reset_buf_wf : State.reset.buf.wf = true := rfl

/-! ## Read after write -/

theorem read_of_risesFrom {k a : Nat} (h : a < k) : ∀ {m : Memory}, m.risesFrom k = true → m.read a = none
  | [], _ => rfl
  | (i, v) :: rest, hm => by
    simp only [Memory.risesFrom, Bool.and_eq_true, decide_eq_true_eq] at hm
    rw [Memory.read, if_neg (by omega)]
    exact read_of_risesFrom (by omega) hm.2

theorem read_write_same (a : Nat) (b : Byte) : ∀ m : Memory, (m.write a b).read a = some b
  | [] => by simp [Memory.write, Memory.read]
  | (i, v) :: rest => by
    unfold Memory.write
    split
    · simp [Memory.read]
    · split
      · simp [Memory.read]
      · next h1 h2 => rw [Memory.read, if_neg h2, read_write_same a b rest]

theorem read_write_other {a a' : Nat} (b : Byte) (h : a' ≠ a) : ∀ m : Memory, (m.write a b).read a' = m.read a'
  | [] => by simp [Memory.write, Memory.read, h]
  | (i, v) :: rest => by
    unfold Memory.write
    split
    · simp [Memory.read, h]
    · split
      · next h1 h2 => subst h2; simp [Memory.read, h]
      · simp only [Memory.read]
        rw [read_write_other b h rest]

theorem read_writeBytes_outside {a' : Nat} : ∀ {d : List Byte} {m : Memory} {a : Nat},
    (a' < a ∨ a + d.length ≤ a') → (m.writeBytes a d).read a' = m.read a'
  | [], _, _, _ => rfl
  | b :: bs, m, a, h => by
    simp only [List.length_cons] at h
    rw [Memory.writeBytes, read_writeBytes_outside (by omega), read_write_other b (by omega)]

theorem read_writeBytes_inside : ∀ {d : List Byte} {m : Memory} {a j : Nat} (hj : j < d.length),
    (m.writeBytes a d).read (a + j) = some d[j]
  | b :: bs, m, a, 0, _ => by
    rw [Memory.writeBytes, read_writeBytes_outside (Or.inl (by omega))]
    exact read_write_same a b m
  | b :: bs, m, a, j + 1, hj => by
    simp only [List.length_cons] at hj
    have h := read_writeBytes_inside (d := bs) (m := m.write a b) (a := a + 1) (j := j) (by omega)
    rw [Memory.writeBytes, show a + (j + 1) = a + 1 + j by omega, h]
    simp

/-! ## A buffer written up to an index -/

theorem write_append {k : Nat} {b : Byte} : ∀ {m : Memory}, (∀ c ∈ m, c.1 < k) → m.write k b = m ++ [(k, b)]
  | [], _ => rfl
  | (i, v) :: rest, h => by
    have hi : i < k := h (i, v) (by simp)
    rw [Memory.write, if_neg (by omega), if_neg (by omega), write_append fun c hc => h c (by simp [hc])]
    rfl

/-- Appending a list to a buffer whose bytes all lie below `k` adds its bytes at the end, in order (20_memory.md R41). -/
theorem writeBytes_append : ∀ {d : List Byte} {m : Memory} {k : Nat}, (∀ c ∈ m, c.1 < k) →
    (m.writeBytes k d).map Prod.fst = m.map Prod.fst ++ List.range' k d.length ∧
      (m.writeBytes k d).map Prod.snd = m.map Prod.snd ++ d
  | [], m, k, _ => by simp [Memory.writeBytes]
  | b :: bs, m, k, h => by
    have hw : ∀ c ∈ m.write k b, c.1 < k + 1 := by
      rw [write_append h]
      intro c hc
      rcases List.mem_append.1 hc with hc | hc
      · have := h c hc; omega
      · simp at hc; simp [hc]
    obtain ⟨h1, h2⟩ := writeBytes_append (d := bs) hw
    rw [Memory.writeBytes, h1, h2, write_append h]
    simp [List.range'_succ]

theorem keys_lt_of_range {m : Memory} {k : Nat} (h : m.map Prod.fst = List.range k) : ∀ c ∈ m, c.1 < k := by
  intro c hc
  have : c.1 ∈ m.map Prod.fst := List.mem_map_of_mem hc
  rw [h] at this
  exact List.mem_range.1 this

/-- A buffer written at exactly the indices below `k` is, after `d` is appended, written at exactly those below
`k + d.length`. -/
theorem writeBytes_range {m : Memory} {k : Nat} {d : List Byte} (h : m.map Prod.fst = List.range k) :
    (m.writeBytes k d).map Prod.fst = List.range (k + d.length) := by
  rw [(writeBytes_append (keys_lt_of_range h)).1, h, List.range_add, List.range'_eq_map_range]

theorem read_of_range' : ∀ {m : Memory} {j i : Nat}, m.map Prod.fst = List.range' j m.length →
    m.read (j + i) = (m.map Prod.snd)[i]?
  | [], _, _, _ => rfl
  | (k, v) :: rest, j, i, h => by
    simp only [List.map_cons, List.length_cons, List.range'_succ, List.cons.injEq] at h
    obtain ⟨rfl, h⟩ := h
    cases i with
    | zero => simp [Memory.read]
    | succ i =>
      rw [Memory.read, if_neg (by omega), show k + (i + 1) = k + 1 + i by omega, read_of_range' h]
      simp

/-- Reading a stretch of a buffer written at exactly the indices below its length. -/
theorem readBytes_of_range {m : Memory} (h : m.map Prod.fst = List.range m.length) :
    ∀ {count a : Nat}, a + count ≤ m.length → m.readBytes a count = .ok (((m.map Prod.snd).drop a).take count)
  | 0, _, _ => by simp [Memory.readBytes]
  | count + 1, a, ha => by
    have hr : m.read a = (m.map Prod.snd)[a]? := by
      have := read_of_range' (m := m) (j := 0) (i := a) (by rw [h, List.range_eq_range'])
      simpa using this
    have hlt : a < (m.map Prod.snd).length := by simp; omega
    rw [Memory.readBytes, hr, List.getElem?_eq_getElem hlt]
    simp only
    rw [readBytes_of_range h (by omega), List.drop_eq_getElem_cons hlt]
    simp

/-- Reading all of a buffer written at exactly the indices below `k` gives its bytes in order. -/
theorem readBytes_all {m : Memory} {k : Nat} (h : m.map Prod.fst = List.range k) :
    m.readBytes 0 k = .ok (m.map Prod.snd) := by
  have hk : m.length = k := by simpa using congrArg List.length h
  subst hk
  rw [readBytes_of_range h (by omega)]
  simp

theorem wf_of_range' : ∀ {m : Memory} {j : Nat}, m.map Prod.fst = List.range' j m.length → m.risesFrom j = true
  | [], _, _ => rfl
  | (k, v) :: rest, j, h => by
    simp only [List.map_cons, List.length_cons, List.range'_succ, List.cons.injEq] at h
    obtain ⟨rfl, h⟩ := h
    simp only [Memory.risesFrom, Bool.and_eq_true, decide_eq_true_eq]
    exact ⟨Nat.le_refl _, wf_of_range' h⟩

end Sys2Proof.Machine
end

