-- ==== Sys2Proof/Laws/State.lean ====
section
/-! SUPPORT. What each named update of the state does to each field, one lemma a field, so that no later proof unfolds a
record update. -/

namespace Sys2Proof.Machine

/-! ## Taking an answer of the radio -/

@[simp] theorem answerTaken_lineTable (s : State) : (answerTaken s).lineTable = s.lineTable := rfl
@[simp] theorem answerTaken_hdrOvfBytes (s : State) : (answerTaken s).hdrOvfBytes = s.hdrOvfBytes := rfl
@[simp] theorem answerTaken_cfg (s : State) : (answerTaken s).cfg = s.cfg := rfl
@[simp] theorem answerTaken_st (s : State) : (answerTaken s).st = s.st := rfl
@[simp] theorem answerTaken_len (s : State) : (answerTaken s).len = s.len := rfl
@[simp] theorem answerTaken_tgt (s : State) : (answerTaken s).tgt = s.tgt := rfl
@[simp] theorem answerTaken_cur (s : State) : (answerTaken s).cur = s.cur := rfl
@[simp] theorem answerTaken_avail (s : State) : (answerTaken s).avail = s.avail := rfl
@[simp] theorem answerTaken_empty (s : State) : (answerTaken s).empty = s.empty := rfl
@[simp] theorem answerTaken_n (s : State) : (answerTaken s).n = s.n := rfl
@[simp] theorem answerTaken_last (s : State) : (answerTaken s).last = s.last := rfl
@[simp] theorem answerTaken_pending (s : State) : (answerTaken s).pending = s.pending := rfl
@[simp] theorem answerTaken_buf (s : State) : (answerTaken s).buf = s.buf := rfl
@[simp] theorem answerTaken_res (s : State) : (answerTaken s).res = s.res := rfl
@[simp] theorem answerTaken_trace (s : State) : (answerTaken s).trace = s.trace := rfl
@[simp] theorem answerTaken_operand (s : State) : (answerTaken s).operand = s.operand := rfl
@[simp] theorem answerTaken_timeout (s : State) : (answerTaken s).timeout = s.timeout := rfl
@[simp] theorem answerTaken_requests (s : State) : (answerTaken s).requests = s.requests := rfl
@[simp] theorem answerTaken_irqLatched (s : State) : (answerTaken s).irqLatched = s.irqLatched := rfl
@[simp] theorem answerTaken_cancelReady (s : State) : (answerTaken s).cancelReady = s.cancelReady := rfl
@[simp] theorem answerTaken_bus (s : State) : (answerTaken s).bus = s.bus.tail := rfl
@[simp] theorem answerTaken_wakes (s : State) : (answerTaken s).wakes = s.wakes := rfl
@[simp] theorem answerTaken_draws (s : State) : (answerTaken s).draws = s.draws + 1 := rfl

/-! ## Recording a bus event -/

@[simp] theorem record_lineTable (e : BusEvent) (s : State) : (record e s).lineTable = s.lineTable := rfl
@[simp] theorem record_hdrOvfBytes (e : BusEvent) (s : State) : (record e s).hdrOvfBytes = s.hdrOvfBytes := rfl
@[simp] theorem record_cfg (e : BusEvent) (s : State) : (record e s).cfg = s.cfg := rfl
@[simp] theorem record_st (e : BusEvent) (s : State) : (record e s).st = s.st := rfl
@[simp] theorem record_len (e : BusEvent) (s : State) : (record e s).len = s.len := rfl
@[simp] theorem record_tgt (e : BusEvent) (s : State) : (record e s).tgt = s.tgt := rfl
@[simp] theorem record_cur (e : BusEvent) (s : State) : (record e s).cur = s.cur := rfl
@[simp] theorem record_avail (e : BusEvent) (s : State) : (record e s).avail = s.avail := rfl
@[simp] theorem record_empty (e : BusEvent) (s : State) : (record e s).empty = s.empty := rfl
@[simp] theorem record_n (e : BusEvent) (s : State) : (record e s).n = s.n := rfl
@[simp] theorem record_last (e : BusEvent) (s : State) : (record e s).last = s.last := rfl
@[simp] theorem record_pending (e : BusEvent) (s : State) : (record e s).pending = s.pending := rfl
@[simp] theorem record_buf (e : BusEvent) (s : State) : (record e s).buf = s.buf := rfl
@[simp] theorem record_res (e : BusEvent) (s : State) : (record e s).res = s.res := rfl
@[simp] theorem record_trace (e : BusEvent) (s : State) : (record e s).trace = s.trace ++ [e] := rfl
@[simp] theorem record_operand (e : BusEvent) (s : State) : (record e s).operand = s.operand := rfl
@[simp] theorem record_timeout (e : BusEvent) (s : State) : (record e s).timeout = s.timeout := rfl
@[simp] theorem record_requests (e : BusEvent) (s : State) : (record e s).requests = s.requests := rfl
@[simp] theorem record_irqLatched (e : BusEvent) (s : State) : (record e s).irqLatched = s.irqLatched := rfl
@[simp] theorem record_cancelReady (e : BusEvent) (s : State) : (record e s).cancelReady = s.cancelReady := rfl
@[simp] theorem record_bus (e : BusEvent) (s : State) : (record e s).bus = s.bus := rfl
@[simp] theorem record_wakes (e : BusEvent) (s : State) : (record e s).wakes = s.wakes := rfl
@[simp] theorem record_draws (e : BusEvent) (s : State) : (record e s).draws = s.draws := rfl

/-! ## Starting an operation -/

@[simp] theorem beginOp_lineTable (s : State) : (beginOp s).lineTable = s.lineTable := rfl
@[simp] theorem beginOp_hdrOvfBytes (s : State) : (beginOp s).hdrOvfBytes = s.hdrOvfBytes := rfl
@[simp] theorem beginOp_cfg (s : State) : (beginOp s).cfg = s.cfg := rfl
@[simp] theorem beginOp_st (s : State) : (beginOp s).st = s.st := rfl
@[simp] theorem beginOp_len (s : State) : (beginOp s).len = s.len := rfl
@[simp] theorem beginOp_tgt (s : State) : (beginOp s).tgt = s.tgt := rfl
@[simp] theorem beginOp_cur (s : State) : (beginOp s).cur = s.cur := rfl
@[simp] theorem beginOp_avail (s : State) : (beginOp s).avail = s.avail := rfl
@[simp] theorem beginOp_empty (s : State) : (beginOp s).empty = s.empty := rfl
@[simp] theorem beginOp_n (s : State) : (beginOp s).n = s.n := rfl
@[simp] theorem beginOp_last (s : State) : (beginOp s).last = s.last := rfl
@[simp] theorem beginOp_pending (s : State) : (beginOp s).pending = s.pending := rfl
@[simp] theorem beginOp_buf (s : State) : (beginOp s).buf = s.buf := rfl
@[simp] theorem beginOp_res (s : State) : (beginOp s).res = s.res := rfl
@[simp] theorem beginOp_trace (s : State) : (beginOp s).trace = [] := rfl
@[simp] theorem beginOp_operand (s : State) : (beginOp s).operand = s.operand := rfl
@[simp] theorem beginOp_timeout (s : State) : (beginOp s).timeout = s.timeout := rfl
@[simp] theorem beginOp_requests (s : State) : (beginOp s).requests = s.requests := rfl
@[simp] theorem beginOp_irqLatched (s : State) : (beginOp s).irqLatched = s.irqLatched := rfl
@[simp] theorem beginOp_cancelReady (s : State) : (beginOp s).cancelReady = s.cancelReady := rfl
@[simp] theorem beginOp_bus (s : State) : (beginOp s).bus = s.bus := rfl
@[simp] theorem beginOp_wakes (s : State) : (beginOp s).wakes = s.wakes := rfl
@[simp] theorem beginOp_draws (s : State) : (beginOp s).draws = s.draws := rfl

/-! ## Ending an operation -/

@[simp] theorem finish_lineTable (r : Result) (s : State) : (finish r s).lineTable = s.lineTable := rfl
@[simp] theorem finish_hdrOvfBytes (r : Result) (s : State) : (finish r s).hdrOvfBytes = s.hdrOvfBytes := rfl
@[simp] theorem finish_cfg (r : Result) (s : State) : (finish r s).cfg = s.cfg := rfl
@[simp] theorem finish_st (r : Result) (s : State) : (finish r s).st = s.st := rfl
@[simp] theorem finish_len (r : Result) (s : State) : (finish r s).len = s.len := rfl
@[simp] theorem finish_tgt (r : Result) (s : State) : (finish r s).tgt = s.tgt := rfl
@[simp] theorem finish_cur (r : Result) (s : State) : (finish r s).cur = s.cur := rfl
@[simp] theorem finish_avail (r : Result) (s : State) : (finish r s).avail = s.avail := rfl
@[simp] theorem finish_empty (r : Result) (s : State) : (finish r s).empty = s.empty := rfl
@[simp] theorem finish_n (r : Result) (s : State) : (finish r s).n = s.n := rfl
@[simp] theorem finish_last (r : Result) (s : State) : (finish r s).last = s.last := rfl
@[simp] theorem finish_pending (r : Result) (s : State) : (finish r s).pending = s.pending := rfl
@[simp] theorem finish_buf (r : Result) (s : State) : (finish r s).buf = s.buf := rfl
@[simp] theorem finish_res (r : Result) (s : State) : (finish r s).res = r := rfl
@[simp] theorem finish_trace (r : Result) (s : State) : (finish r s).trace = s.trace := rfl
@[simp] theorem finish_operand (r : Result) (s : State) : (finish r s).operand = s.operand := rfl
@[simp] theorem finish_timeout (r : Result) (s : State) : (finish r s).timeout = s.timeout := rfl
@[simp] theorem finish_requests (r : Result) (s : State) : (finish r s).requests = s.requests := rfl
@[simp] theorem finish_irqLatched (r : Result) (s : State) : (finish r s).irqLatched = s.irqLatched := rfl
@[simp] theorem finish_cancelReady (r : Result) (s : State) : (finish r s).cancelReady = s.cancelReady := rfl
@[simp] theorem finish_bus (r : Result) (s : State) : (finish r s).bus = s.bus := rfl
@[simp] theorem finish_wakes (r : Result) (s : State) : (finish r s).wakes = s.wakes := rfl
@[simp] theorem finish_draws (r : Result) (s : State) : (finish r s).draws = s.draws := rfl

/-! ## Dropping the PendingFrame -/

@[simp] theorem dropFrame_lineTable (s : State) : (dropFrame s).lineTable = s.lineTable := rfl
@[simp] theorem dropFrame_hdrOvfBytes (s : State) : (dropFrame s).hdrOvfBytes = s.hdrOvfBytes := rfl
@[simp] theorem dropFrame_cfg (s : State) : (dropFrame s).cfg = s.cfg := rfl
@[simp] theorem dropFrame_st (s : State) : (dropFrame s).st = s.st := rfl
@[simp] theorem dropFrame_len (s : State) : (dropFrame s).len = s.len := rfl
@[simp] theorem dropFrame_tgt (s : State) : (dropFrame s).tgt = s.tgt := rfl
@[simp] theorem dropFrame_cur (s : State) : (dropFrame s).cur = s.cur := rfl
@[simp] theorem dropFrame_avail (s : State) : (dropFrame s).avail = s.avail := rfl
@[simp] theorem dropFrame_empty (s : State) : (dropFrame s).empty = s.empty := rfl
@[simp] theorem dropFrame_n (s : State) : (dropFrame s).n = s.n := rfl
@[simp] theorem dropFrame_last (s : State) : (dropFrame s).last = s.last := rfl
@[simp] theorem dropFrame_pending (s : State) : (dropFrame s).pending = s.pending := rfl
@[simp] theorem dropFrame_buf (s : State) : (dropFrame s).buf = [] := rfl
@[simp] theorem dropFrame_res (s : State) : (dropFrame s).res = s.res := rfl
@[simp] theorem dropFrame_trace (s : State) : (dropFrame s).trace = s.trace := rfl
@[simp] theorem dropFrame_operand (s : State) : (dropFrame s).operand = s.operand := rfl
@[simp] theorem dropFrame_timeout (s : State) : (dropFrame s).timeout = s.timeout := rfl
@[simp] theorem dropFrame_requests (s : State) : (dropFrame s).requests = s.requests := rfl
@[simp] theorem dropFrame_irqLatched (s : State) : (dropFrame s).irqLatched = s.irqLatched := rfl
@[simp] theorem dropFrame_cancelReady (s : State) : (dropFrame s).cancelReady = s.cancelReady := rfl
@[simp] theorem dropFrame_bus (s : State) : (dropFrame s).bus = s.bus := rfl
@[simp] theorem dropFrame_wakes (s : State) : (dropFrame s).wakes = s.wakes := rfl
@[simp] theorem dropFrame_draws (s : State) : (dropFrame s).draws = s.draws := rfl

/-! ## Meeting a recoverable drain error -/

@[simp] theorem raisePending_lineTable (e : Cause) (s : State) : (raisePending e s).lineTable = s.lineTable := rfl
@[simp] theorem raisePending_hdrOvfBytes (e : Cause) (s : State) : (raisePending e s).hdrOvfBytes = s.hdrOvfBytes := rfl
@[simp] theorem raisePending_cfg (e : Cause) (s : State) : (raisePending e s).cfg = s.cfg := rfl
@[simp] theorem raisePending_st (e : Cause) (s : State) : (raisePending e s).st = .flush := rfl
@[simp] theorem raisePending_len (e : Cause) (s : State) : (raisePending e s).len = s.len := rfl
@[simp] theorem raisePending_tgt (e : Cause) (s : State) : (raisePending e s).tgt = s.tgt := rfl
@[simp] theorem raisePending_cur (e : Cause) (s : State) : (raisePending e s).cur = s.cur := rfl
@[simp] theorem raisePending_avail (e : Cause) (s : State) : (raisePending e s).avail = s.avail := rfl
@[simp] theorem raisePending_empty (e : Cause) (s : State) : (raisePending e s).empty = s.empty := rfl
@[simp] theorem raisePending_n (e : Cause) (s : State) : (raisePending e s).n = s.n := rfl
@[simp] theorem raisePending_last (e : Cause) (s : State) : (raisePending e s).last = s.last := rfl
@[simp] theorem raisePending_pending (e : Cause) (s : State) : (raisePending e s).pending = e := rfl
@[simp] theorem raisePending_buf (e : Cause) (s : State) : (raisePending e s).buf = s.buf := rfl
@[simp] theorem raisePending_res (e : Cause) (s : State) : (raisePending e s).res = s.res := rfl
@[simp] theorem raisePending_trace (e : Cause) (s : State) : (raisePending e s).trace = s.trace := rfl
@[simp] theorem raisePending_operand (e : Cause) (s : State) : (raisePending e s).operand = s.operand := rfl
@[simp] theorem raisePending_timeout (e : Cause) (s : State) : (raisePending e s).timeout = s.timeout := rfl
@[simp] theorem raisePending_requests (e : Cause) (s : State) : (raisePending e s).requests = s.requests := rfl
@[simp] theorem raisePending_irqLatched (e : Cause) (s : State) : (raisePending e s).irqLatched = s.irqLatched := rfl
@[simp] theorem raisePending_cancelReady (e : Cause) (s : State) : (raisePending e s).cancelReady = s.cancelReady := rfl
@[simp] theorem raisePending_bus (e : Cause) (s : State) : (raisePending e s).bus = s.bus := rfl
@[simp] theorem raisePending_wakes (e : Cause) (s : State) : (raisePending e s).wakes = s.wakes := rfl
@[simp] theorem raisePending_draws (e : Cause) (s : State) : (raisePending e s).draws = s.draws := rfl

/-! ## Starting a RECEIVE -/

@[simp] theorem startReceive_lineTable (s : State) : (startReceive s).lineTable = s.lineTable := rfl
@[simp] theorem startReceive_hdrOvfBytes (s : State) : (startReceive s).hdrOvfBytes = s.hdrOvfBytes := rfl
@[simp] theorem startReceive_cfg (s : State) : (startReceive s).cfg = s.cfg := rfl
@[simp] theorem startReceive_st (s : State) : (startReceive s).st = .hdr := rfl
@[simp] theorem startReceive_len (s : State) : (startReceive s).len = s.len := rfl
@[simp] theorem startReceive_tgt (s : State) : (startReceive s).tgt = 0 := rfl
@[simp] theorem startReceive_cur (s : State) : (startReceive s).cur = 0 := rfl
@[simp] theorem startReceive_avail (s : State) : (startReceive s).avail = s.avail := rfl
@[simp] theorem startReceive_empty (s : State) : (startReceive s).empty = 0 := rfl
@[simp] theorem startReceive_n (s : State) : (startReceive s).n = s.n := rfl
@[simp] theorem startReceive_last (s : State) : (startReceive s).last = false := rfl
@[simp] theorem startReceive_pending (s : State) : (startReceive s).pending = s.pending := rfl
@[simp] theorem startReceive_buf (s : State) : (startReceive s).buf = [] := rfl
@[simp] theorem startReceive_res (s : State) : (startReceive s).res = s.res := rfl
@[simp] theorem startReceive_trace (s : State) : (startReceive s).trace = [] := rfl
@[simp] theorem startReceive_operand (s : State) : (startReceive s).operand = s.operand := rfl
@[simp] theorem startReceive_timeout (s : State) : (startReceive s).timeout = s.timeout := rfl
@[simp] theorem startReceive_requests (s : State) : (startReceive s).requests = s.requests := rfl
@[simp] theorem startReceive_irqLatched (s : State) : (startReceive s).irqLatched = s.irqLatched := rfl
@[simp] theorem startReceive_cancelReady (s : State) : (startReceive s).cancelReady = s.cancelReady := rfl
@[simp] theorem startReceive_bus (s : State) : (startReceive s).bus = s.bus := rfl
@[simp] theorem startReceive_wakes (s : State) : (startReceive s).wakes = s.wakes := rfl
@[simp] theorem startReceive_draws (s : State) : (startReceive s).draws = s.draws := rfl

/-! ## Leaving READ -/

@[simp] theorem afterChunk_lineTable (s : State) : (afterChunk s).lineTable = s.lineTable := rfl
@[simp] theorem afterChunk_hdrOvfBytes (s : State) : (afterChunk s).hdrOvfBytes = s.hdrOvfBytes := rfl
@[simp] theorem afterChunk_cfg (s : State) : (afterChunk s).cfg = s.cfg := rfl
@[simp] theorem afterChunk_st (s : State) : (afterChunk s).st = if s.last then .done else .pauseP := rfl
@[simp] theorem afterChunk_len (s : State) : (afterChunk s).len = s.len := rfl
@[simp] theorem afterChunk_tgt (s : State) : (afterChunk s).tgt = s.tgt := rfl
@[simp] theorem afterChunk_cur (s : State) : (afterChunk s).cur = s.cur := rfl
@[simp] theorem afterChunk_avail (s : State) : (afterChunk s).avail = s.avail := rfl
@[simp] theorem afterChunk_empty (s : State) : (afterChunk s).empty = s.empty := rfl
@[simp] theorem afterChunk_n (s : State) : (afterChunk s).n = s.n := rfl
@[simp] theorem afterChunk_last (s : State) : (afterChunk s).last = s.last := rfl
@[simp] theorem afterChunk_pending (s : State) : (afterChunk s).pending = s.pending := rfl
@[simp] theorem afterChunk_buf (s : State) : (afterChunk s).buf = s.buf := rfl
@[simp] theorem afterChunk_res (s : State) : (afterChunk s).res = s.res := rfl
@[simp] theorem afterChunk_trace (s : State) : (afterChunk s).trace = s.trace := rfl
@[simp] theorem afterChunk_operand (s : State) : (afterChunk s).operand = s.operand := rfl
@[simp] theorem afterChunk_timeout (s : State) : (afterChunk s).timeout = s.timeout := rfl
@[simp] theorem afterChunk_requests (s : State) : (afterChunk s).requests = s.requests := rfl
@[simp] theorem afterChunk_irqLatched (s : State) : (afterChunk s).irqLatched = s.irqLatched := rfl
@[simp] theorem afterChunk_cancelReady (s : State) : (afterChunk s).cancelReady = s.cancelReady := rfl
@[simp] theorem afterChunk_bus (s : State) : (afterChunk s).bus = s.bus := rfl
@[simp] theorem afterChunk_wakes (s : State) : (afterChunk s).wakes = s.wakes := rfl
@[simp] theorem afterChunk_draws (s : State) : (afterChunk s).draws = s.draws := rfl

/-! ## The dummy read -/

@[simp] theorem irqReadState_lineTable (s : State) : (irqReadState s).lineTable = s.lineTable := rfl
@[simp] theorem irqReadState_hdrOvfBytes (s : State) : (irqReadState s).hdrOvfBytes = s.hdrOvfBytes := rfl
@[simp] theorem irqReadState_cfg (s : State) : (irqReadState s).cfg = s.cfg := rfl
@[simp] theorem irqReadState_st (s : State) : (irqReadState s).st = s.st := rfl
@[simp] theorem irqReadState_len (s : State) : (irqReadState s).len = s.len := rfl
@[simp] theorem irqReadState_tgt (s : State) : (irqReadState s).tgt = s.tgt := rfl
@[simp] theorem irqReadState_cur (s : State) : (irqReadState s).cur = s.cur := rfl
@[simp] theorem irqReadState_avail (s : State) : (irqReadState s).avail = s.avail := rfl
@[simp] theorem irqReadState_empty (s : State) : (irqReadState s).empty = s.empty := rfl
@[simp] theorem irqReadState_n (s : State) : (irqReadState s).n = s.n := rfl
@[simp] theorem irqReadState_last (s : State) : (irqReadState s).last = s.last := rfl
@[simp] theorem irqReadState_pending (s : State) : (irqReadState s).pending = s.pending := rfl
@[simp] theorem irqReadState_buf (s : State) : (irqReadState s).buf = s.buf := rfl
@[simp] theorem irqReadState_res (s : State) : (irqReadState s).res = s.res := rfl
@[simp] theorem irqReadState_trace (s : State) : (irqReadState s).trace = s.trace := rfl
@[simp] theorem irqReadState_operand (s : State) : (irqReadState s).operand = s.operand := rfl
@[simp] theorem irqReadState_timeout (s : State) : (irqReadState s).timeout = s.timeout := rfl
@[simp] theorem irqReadState_requests (s : State) : (irqReadState s).requests = s.requests := rfl
@[simp] theorem irqReadState_irqLatched (s : State) : (irqReadState s).irqLatched = false := rfl
@[simp] theorem irqReadState_cancelReady (s : State) : (irqReadState s).cancelReady = s.cancelReady := rfl
@[simp] theorem irqReadState_bus (s : State) : (irqReadState s).bus = s.bus := rfl
@[simp] theorem irqReadState_wakes (s : State) : (irqReadState s).wakes = s.wakes := rfl
@[simp] theorem irqReadState_draws (s : State) : (irqReadState s).draws = s.draws := rfl

/-! ## Waking from a WAIT -/

@[simp] theorem wakeUp_lineTable (w : Wake) (s : State) : (wakeUp w s).lineTable = s.lineTable := rfl
@[simp] theorem wakeUp_hdrOvfBytes (w : Wake) (s : State) : (wakeUp w s).hdrOvfBytes = s.hdrOvfBytes := rfl
@[simp] theorem wakeUp_cfg (w : Wake) (s : State) : (wakeUp w s).cfg = s.cfg := rfl
@[simp] theorem wakeUp_st (w : Wake) (s : State) : (wakeUp w s).st = s.st := rfl
@[simp] theorem wakeUp_len (w : Wake) (s : State) : (wakeUp w s).len = s.len := rfl
@[simp] theorem wakeUp_tgt (w : Wake) (s : State) : (wakeUp w s).tgt = s.tgt := rfl
@[simp] theorem wakeUp_cur (w : Wake) (s : State) : (wakeUp w s).cur = s.cur := rfl
@[simp] theorem wakeUp_avail (w : Wake) (s : State) : (wakeUp w s).avail = s.avail := rfl
@[simp] theorem wakeUp_empty (w : Wake) (s : State) : (wakeUp w s).empty = s.empty := rfl
@[simp] theorem wakeUp_n (w : Wake) (s : State) : (wakeUp w s).n = s.n := rfl
@[simp] theorem wakeUp_last (w : Wake) (s : State) : (wakeUp w s).last = s.last := rfl
@[simp] theorem wakeUp_pending (w : Wake) (s : State) : (wakeUp w s).pending = s.pending := rfl
@[simp] theorem wakeUp_buf (w : Wake) (s : State) : (wakeUp w s).buf = s.buf := rfl
@[simp] theorem wakeUp_res (w : Wake) (s : State) : (wakeUp w s).res = s.res := rfl
@[simp] theorem wakeUp_trace (w : Wake) (s : State) : (wakeUp w s).trace = s.trace := rfl
@[simp] theorem wakeUp_operand (w : Wake) (s : State) : (wakeUp w s).operand = s.operand := rfl
@[simp] theorem wakeUp_timeout (w : Wake) (s : State) : (wakeUp w s).timeout = s.timeout := rfl
@[simp] theorem wakeUp_requests (w : Wake) (s : State) : (wakeUp w s).requests = s.requests := rfl
@[simp] theorem wakeUp_irqLatched (w : Wake) (s : State) : (wakeUp w s).irqLatched = (s.irqLatched || w.edge) := rfl
@[simp] theorem wakeUp_cancelReady (w : Wake) (s : State) : (wakeUp w s).cancelReady = w.cancel.getD s.cancelReady := rfl
@[simp] theorem wakeUp_bus (w : Wake) (s : State) : (wakeUp w s).bus = s.bus := rfl
@[simp] theorem wakeUp_wakes (w : Wake) (s : State) : (wakeUp w s).wakes = s.wakes.tail := rfl
@[simp] theorem wakeUp_draws (w : Wake) (s : State) : (wakeUp w s).draws = s.draws + 1 := rfl

/-! ## Taking a request -/

@[simp] theorem takeCommand_lineTable (rest : List Request) (x : List Byte) (t : Nat) (s : State) : (takeCommand rest x t s).lineTable = s.lineTable := rfl
@[simp] theorem takeCommand_hdrOvfBytes (rest : List Request) (x : List Byte) (t : Nat) (s : State) : (takeCommand rest x t s).hdrOvfBytes = s.hdrOvfBytes := rfl
@[simp] theorem takeCommand_cfg (rest : List Request) (x : List Byte) (t : Nat) (s : State) : (takeCommand rest x t s).cfg = s.cfg := rfl
@[simp] theorem takeCommand_st (rest : List Request) (x : List Byte) (t : Nat) (s : State) : (takeCommand rest x t s).st = s.st := rfl
@[simp] theorem takeCommand_len (rest : List Request) (x : List Byte) (t : Nat) (s : State) : (takeCommand rest x t s).len = s.len := rfl
@[simp] theorem takeCommand_tgt (rest : List Request) (x : List Byte) (t : Nat) (s : State) : (takeCommand rest x t s).tgt = s.tgt := rfl
@[simp] theorem takeCommand_cur (rest : List Request) (x : List Byte) (t : Nat) (s : State) : (takeCommand rest x t s).cur = s.cur := rfl
@[simp] theorem takeCommand_avail (rest : List Request) (x : List Byte) (t : Nat) (s : State) : (takeCommand rest x t s).avail = s.avail := rfl
@[simp] theorem takeCommand_empty (rest : List Request) (x : List Byte) (t : Nat) (s : State) : (takeCommand rest x t s).empty = s.empty := rfl
@[simp] theorem takeCommand_n (rest : List Request) (x : List Byte) (t : Nat) (s : State) : (takeCommand rest x t s).n = s.n := rfl
@[simp] theorem takeCommand_last (rest : List Request) (x : List Byte) (t : Nat) (s : State) : (takeCommand rest x t s).last = s.last := rfl
@[simp] theorem takeCommand_pending (rest : List Request) (x : List Byte) (t : Nat) (s : State) : (takeCommand rest x t s).pending = s.pending := rfl
@[simp] theorem takeCommand_buf (rest : List Request) (x : List Byte) (t : Nat) (s : State) : (takeCommand rest x t s).buf = s.buf := rfl
@[simp] theorem takeCommand_res (rest : List Request) (x : List Byte) (t : Nat) (s : State) : (takeCommand rest x t s).res = s.res := rfl
@[simp] theorem takeCommand_trace (rest : List Request) (x : List Byte) (t : Nat) (s : State) : (takeCommand rest x t s).trace = s.trace := rfl
@[simp] theorem takeCommand_operand (rest : List Request) (x : List Byte) (t : Nat) (s : State) : (takeCommand rest x t s).operand = x := rfl
@[simp] theorem takeCommand_timeout (rest : List Request) (x : List Byte) (t : Nat) (s : State) : (takeCommand rest x t s).timeout = t := rfl
@[simp] theorem takeCommand_requests (rest : List Request) (x : List Byte) (t : Nat) (s : State) : (takeCommand rest x t s).requests = rest := rfl
@[simp] theorem takeCommand_irqLatched (rest : List Request) (x : List Byte) (t : Nat) (s : State) : (takeCommand rest x t s).irqLatched = s.irqLatched := rfl
@[simp] theorem takeCommand_cancelReady (rest : List Request) (x : List Byte) (t : Nat) (s : State) : (takeCommand rest x t s).cancelReady = s.cancelReady := rfl
@[simp] theorem takeCommand_bus (rest : List Request) (x : List Byte) (t : Nat) (s : State) : (takeCommand rest x t s).bus = s.bus := rfl
@[simp] theorem takeCommand_wakes (rest : List Request) (x : List Byte) (t : Nat) (s : State) : (takeCommand rest x t s).wakes = s.wakes := rfl
@[simp] theorem takeCommand_draws (rest : List Request) (x : List Byte) (t : Nat) (s : State) : (takeCommand rest x t s).draws = s.draws := rfl

/-! ## Issuing a request -/

@[simp] theorem issue_lineTable (r : Request) (s : State) : (issue r s).lineTable = s.lineTable := rfl
@[simp] theorem issue_hdrOvfBytes (r : Request) (s : State) : (issue r s).hdrOvfBytes = s.hdrOvfBytes := rfl
@[simp] theorem issue_cfg (r : Request) (s : State) : (issue r s).cfg = s.cfg := rfl
@[simp] theorem issue_st (r : Request) (s : State) : (issue r s).st = s.st := rfl
@[simp] theorem issue_len (r : Request) (s : State) : (issue r s).len = s.len := rfl
@[simp] theorem issue_tgt (r : Request) (s : State) : (issue r s).tgt = s.tgt := rfl
@[simp] theorem issue_cur (r : Request) (s : State) : (issue r s).cur = s.cur := rfl
@[simp] theorem issue_avail (r : Request) (s : State) : (issue r s).avail = s.avail := rfl
@[simp] theorem issue_empty (r : Request) (s : State) : (issue r s).empty = s.empty := rfl
@[simp] theorem issue_n (r : Request) (s : State) : (issue r s).n = s.n := rfl
@[simp] theorem issue_last (r : Request) (s : State) : (issue r s).last = s.last := rfl
@[simp] theorem issue_pending (r : Request) (s : State) : (issue r s).pending = s.pending := rfl
@[simp] theorem issue_buf (r : Request) (s : State) : (issue r s).buf = s.buf := rfl
@[simp] theorem issue_res (r : Request) (s : State) : (issue r s).res = s.res := rfl
@[simp] theorem issue_trace (r : Request) (s : State) : (issue r s).trace = s.trace := rfl
@[simp] theorem issue_operand (r : Request) (s : State) : (issue r s).operand = s.operand := rfl
@[simp] theorem issue_timeout (r : Request) (s : State) : (issue r s).timeout = s.timeout := rfl
@[simp] theorem issue_requests (r : Request) (s : State) : (issue r s).requests = s.requests ++ [r] := rfl
@[simp] theorem issue_irqLatched (r : Request) (s : State) : (issue r s).irqLatched = s.irqLatched := rfl
@[simp] theorem issue_cancelReady (r : Request) (s : State) : (issue r s).cancelReady = s.cancelReady := rfl
@[simp] theorem issue_bus (r : Request) (s : State) : (issue r s).bus = s.bus := rfl
@[simp] theorem issue_wakes (r : Request) (s : State) : (issue r s).wakes = s.wakes := rfl
@[simp] theorem issue_draws (r : Request) (s : State) : (issue r s).draws = s.draws := rfl

end Sys2Proof.Machine
end

