-- ==== Sys2Proof/Laws/Ops.lean ====
section
/-! SUPPORT. One lemma for each shared operation that says everything it can do: starting an operation, the bus primitives,
the accesses to the buffer, the error entries. Later proofs cite these and do not unfold the operations. -/

namespace Sys2Proof.Machine

/-! ## Starting an operation -/

theorem operate_idle {body : State → State} {s : State} (h : s.st = .idle) :
    operate body s = .next (body (beginOp s)) := by
  simp [operate, h]

theorem operate_fault {body : State → State} {s : State} (h : s.st = .fault) : operate body s = .refused .dead := by
  simp [operate, h]

theorem operate_busy {body : State → State} {s : State} (h : receiving s.st = true) :
    operate body s = .refused .busy := by
  cases hs : s.st <;> simp_all [operate, receiving]

/-- An operation that answers a next state ran from IDLE. -/
theorem operate_cases {body : State → State} {s t : State} (h : operate body s = .next t) :
    s.st = .idle ∧ t = body (beginOp s) := by
  cases hs : s.st <;> simp_all [operate]

/-- No operation of one step ends in a fault. -/
theorem operate_ne_fault {body : State → State} {s : State} {f : Fault} : operate body s ≠ .fault f := by
  cases hs : s.st <;> simp [operate, hs]

/-! ## The bus primitives -/

/-- What a status read can do (20_memory.md R44, R49). -/
theorem busStatus_cases (reg : Byte) (s : State) :
    (nextAnswer s = .fails ∧ busStatus reg s = (none, record .fault (answerTaken s))) ∨
      ∃ b data, nextAnswer s = .answers b data ∧
        busStatus reg s = (some b, record (.status reg b) (answerTaken s)) := by
  unfold busStatus
  cases h : nextAnswer s with
  | fails => exact .inl ⟨rfl, rfl⟩
  | answers b data => exact .inr ⟨b, data, rfl, rfl⟩

/-- What a burst read can do (R45, R49). -/
theorem busBurstRead_cases (reg : Byte) (count : Nat) (s : State) :
    (nextAnswer s = .fails ∧ busBurstRead reg count s = (none, record .fault (answerTaken s))) ∨
      ∃ b data, nextAnswer s = .answers b data ∧
        busBurstRead reg count s =
          (some (b, burstData count s.draws data),
            record (.burstRead reg count b (burstData count s.draws data)) (answerTaken s)) := by
  unfold busBurstRead
  cases h : nextAnswer s with
  | fails => exact .inl ⟨rfl, rfl⟩
  | answers b data => exact .inr ⟨b, data, rfl, rfl⟩

/-- What a strobe can do (R46, R49). -/
theorem busStrobe_cases (cmd : Byte) (s : State) :
    (nextAnswer s = .fails ∧ busStrobe cmd s = (none, record .fault (answerTaken s))) ∨
      ∃ b data, nextAnswer s = .answers b data ∧
        busStrobe cmd s = (some b, record (.strobe cmd b) (answerTaken s)) := by
  unfold busStrobe
  cases h : nextAnswer s with
  | fails => exact .inl ⟨rfl, rfl⟩
  | answers b data => exact .inr ⟨b, data, rfl, rfl⟩

/-- A burst read of `count` returns `count` bytes (R45). -/
@[simp] theorem length_burstData (count draw : Nat) (data : List Byte) : (burstData count draw data).length = count := by
  simp [burstData]

/-- The bytes that the answer holds are the bytes returned (R59 (c)). -/
theorem getElem_burstData {count draw k : Nat} {data : List Byte} (hk : k < count) (hd : k < data.length) :
    (burstData count draw data)[k]'(by simpa using hk) = data[k] := by
  simp [burstData, hd]

/-- An answer with exactly the bytes asked for is returned as it is. -/
theorem burstData_eq {count draw : Nat} {data : List Byte} (h : data.length = count) :
    burstData count draw data = data := by
  apply List.ext_getElem (by simp [h])
  intro k h1 h2
  exact getElem_burstData (by simpa using h1) h2

theorem nextAnswer_cons {s : State} {a : BusAnswer} {rest : List BusAnswer} (h : s.bus = a :: rest) :
    nextAnswer s = a := by
  simp [nextAnswer, h]

/-! ## The buffer -/

theorem memWrite_ok {start : Nat} {d : List Byte} {s : State} (h : start + d.length ≤ Config.bufCap) :
    memWrite start d s = .ok { s with buf := s.buf.writeBytes start d } := by
  simp [memWrite, h]

/-- A write that succeeds stays inside the buffer and changes nothing but the buffer. -/
theorem memWrite_cases {start : Nat} {d : List Byte} {s t : State} (h : memWrite start d s = .ok t) :
    start + d.length ≤ Config.bufCap ∧ t = { s with buf := s.buf.writeBytes start d } := by
  unfold memWrite at h
  split at h
  · next hle => exact ⟨hle, by simpa using h.symm⟩
  · cases h

theorem memRead_ok {start count : Nat} {s : State} {bs : List Byte} (h : s.buf.readBytes start count = .ok bs) :
    memRead start count s = .ok bs := by
  simp [memRead, h]

/-! ## The error entries -/

@[simp] theorem busFaultEntry_st (s : State) : (busFaultEntry s).st = .fault := rfl
@[simp] theorem busFaultEntry_res (s : State) : (busFaultEntry s).res = .err .busFault := rfl
@[simp] theorem busFaultEntry_trace (s : State) : (busFaultEntry s).trace = s.trace := rfl
@[simp] theorem busFaultEntry_buf (s : State) : (busFaultEntry s).buf = [] := rfl
@[simp] theorem busFaultEntry_cfg (s : State) : (busFaultEntry s).cfg = s.cfg := rfl

/-- What the flush of a recoverable error can do (40_fifo_drain.md R120, R123; 60_exceptions.md R230). -/
theorem flushEntry_cases (c : Cfg) (s : State) :
    (nextAnswer s = .fails ∧ flushEntry c s = busFaultEntry (record .fault (answerTaken s))) ∨
      ∃ b data, nextAnswer s = .answers b data ∧
        flushEntry c s =
          { record (.strobe c.cmdFlush b) (answerTaken s) with st := .idle, buf := [], res := .err s.pending } := by
  unfold flushEntry
  rcases busStrobe_cases c.cmdFlush s with ⟨h, e⟩ | ⟨b, data, h, e⟩ <;> rw [e]
  · exact .inl ⟨h, rfl⟩
  · exact .inr ⟨b, data, h, rfl⟩

end Sys2Proof.Machine
end

