-- ==== Sys2Proof/Laws/Drain.lean ====
section
/-! SUPPORT. What one transition of the drain unit can do, state by state (40_fifo_drain.md R123), and what one step of the
block can do. Each lemma names every case with its condition. -/

namespace Sys2Proof.Machine

/-! ## The transitions of R123 -/

/-- HDR: a bus fault, a zero length, a header overflow, or the target and QUERY (R102 to R106). -/
theorem drainHdr_cases (c : Cfg) (s : State) :
    (nextAnswer s = .fails ∧ drainHdr c s = busFaultEntry (record .fault (answerTaken s))) ∨
      ∃ s0 data, nextAnswer s = .answers s0 data ∧
        ∃ chunk, chunk = burstData 1 s.draws data ∧
          ∃ u, u = { record (.burstRead c.regRxfifo 1 s0 chunk) (answerTaken s) with len := byteAt chunk 0 } ∧
            ((byteAt chunk 0 = 0 ∧ drainHdr c s = raisePending .invalidLength u) ∨
              (byteAt chunk 0 ≠ 0 ∧ s0 ∈ s.hdrOvfBytes ∧ drainHdr c s = raisePending .overflow u) ∨
              (byteAt chunk 0 ≠ 0 ∧ s0 ∉ s.hdrOvfBytes ∧
                drainHdr c s = { u with tgt := (byteAt chunk 0).toNat + 2, st := .query })) := by
  unfold drainHdr
  rcases busBurstRead_cases c.regRxfifo 1 s with ⟨h, e⟩ | ⟨s0, data, h, e⟩ <;> rw [e]
  · exact .inl ⟨h, rfl⟩
  · refine .inr ⟨s0, data, h, _, rfl, _, rfl, ?_⟩
    by_cases hz : byteAt (burstData 1 s.draws data) 0 = 0
    · exact .inl ⟨hz, if_pos hz⟩
    · by_cases ho : s0 ∈ s.hdrOvfBytes
      · exact .inr (.inl ⟨hz, ho, (if_neg hz).trans (if_pos (decide_eq_true ho))⟩)
      · exact .inr (.inr ⟨hz, ho, (if_neg hz).trans (if_neg fun hh => ho (of_decide_eq_true hh))⟩)

/-- QUERY with a status byte: overflow, an empty observation that spends the budget or does not, a garbage observation, a
completing chunk, a partial chunk (R108 to R114). -/
theorem afterStatus_cases (c : Cfg) (b : Byte) (s : State) :
    (ovfFlag b = true ∧ afterStatus c b s = raisePending .overflow s) ∨
      (ovfFlag b = false ∧ statusCount b = 0 ∧ c.emptyBudget.toNat ≤ s.empty + 1 ∧
        afterStatus c b s = raisePending .receiveTimeout { s with avail := 0, empty := s.empty + 1 }) ∨
      (ovfFlag b = false ∧ statusCount b = 0 ∧ s.empty + 1 < c.emptyBudget.toNat ∧
        afterStatus c b s = { s with avail := 0, empty := s.empty + 1, st := .pauseE }) ∨
      (ovfFlag b = false ∧ 64 < statusCount b ∧ afterStatus c b s = { s with avail := statusCount b }) ∨
      (ovfFlag b = false ∧ 1 ≤ statusCount b ∧ statusCount b ≤ 64 ∧ s.tgt ≤ s.cur + statusCount b ∧
        afterStatus c b s =
          { s with avail := statusCount b, empty := 0, n := statusCount b, last := true, st := .read }) ∨
      (ovfFlag b = false ∧ 1 ≤ statusCount b ∧ statusCount b ≤ 64 ∧ s.cur + statusCount b < s.tgt ∧
        afterStatus c b s =
          { s with avail := statusCount b, empty := 0, n := statusCount b - 1, last := false, st := .read }) := by
  unfold afterStatus
  by_cases ho : ovfFlag b = true
  · exact .inl ⟨ho, by simp [ho]⟩
  · simp only [Bool.not_eq_true] at ho
    by_cases h0 : statusCount b = 0
    · by_cases hb : c.emptyBudget.toNat ≤ s.empty + 1
      · exact .inr (.inl ⟨ho, h0, hb, by simp [ho, h0, emptyObservation, hb]⟩)
      · exact .inr (.inr (.inl ⟨ho, h0, by omega, by simp [ho, h0, emptyObservation, hb]⟩))
    · by_cases hg : 64 < statusCount b
      · exact .inr (.inr (.inr (.inl ⟨ho, hg, by simp [ho, h0, Config.fifoCapacity, hg]⟩)))
      · by_cases ht : s.tgt ≤ s.cur + statusCount b
        · exact .inr (.inr (.inr (.inr (.inl ⟨ho, by omega, by omega, ht, by
            simp [ho, h0, Config.fifoCapacity, hg, tieBreak, lastFlag, ht]⟩))))
        · exact .inr (.inr (.inr (.inr (.inr ⟨ho, by omega, by omega, by omega, by
            simp [ho, h0, Config.fifoCapacity, hg, tieBreak, lastFlag, ht, Config.reserve]⟩))))

/-- QUERY: a bus fault, or the status byte is judged (R107). -/
theorem drainQuery_cases (c : Cfg) (s : State) :
    (nextAnswer s = .fails ∧ drainQuery c s = busFaultEntry (record .fault (answerTaken s))) ∨
      ∃ b data, nextAnswer s = .answers b data ∧
        drainQuery c s = afterStatus c b (record (.status c.regRxbytes b) (answerTaken s)) := by
  unfold drainQuery
  rcases busStatus_cases c.regRxbytes s with ⟨h, e⟩ | ⟨b, data, h, e⟩ <;> rw [e]
  · exact .inl ⟨h, rfl⟩
  · exact .inr ⟨b, data, h, rfl⟩

/-- READ: nothing to read, a bus fault, a chunk that fits the buffer, or a chunk that does not (R113, R115). -/
theorem drainRead_cases (c : Cfg) (s : State) :
    (s.n = 0 ∧ drainRead c s = .next (afterChunk s)) ∨
      (s.n ≠ 0 ∧ nextAnswer s = .fails ∧ drainRead c s = .next (busFaultEntry (record .fault (answerTaken s)))) ∨
      ∃ b data, s.n ≠ 0 ∧ nextAnswer s = .answers b data ∧
        ∃ chunk, chunk = burstData s.n s.draws data ∧
          ((s.cur + s.n ≤ Config.bufCap ∧
            drainRead c s =
              .next (afterChunk
                { record (.burstRead c.regRxfifo s.n b chunk) (answerTaken s) with
                  buf := s.buf.writeBytes s.cur chunk, cur := s.cur + s.n })) ∨
            (Config.bufCap < s.cur + s.n ∧ ∃ i, drainRead c s = .fault (.bufOutOfRange i))) := by
  unfold drainRead
  by_cases hn : s.n = 0
  · exact .inl ⟨hn, by simp [hn]⟩
  · simp only [if_neg hn]
    rcases busBurstRead_cases c.regRxfifo s.n s with ⟨h, e⟩ | ⟨b, data, h, e⟩ <;> rw [e]
    · exact .inr (.inl ⟨hn, h, rfl⟩)
    · refine .inr (.inr ⟨b, data, hn, h, _, rfl, ?_⟩)
      by_cases hc : s.cur + s.n ≤ Config.bufCap
      · exact .inl ⟨hc, by simp [appendChunk, memWrite, hc]⟩
      · exact .inr ⟨by omega, s.cur + s.n - 1, by simp [appendChunk, memWrite, hc]⟩

/-- DONE with a buffer that holds every byte below `cur` (R119). -/
theorem drainDone_ok {s : State} {bs : List Byte} (h : s.buf.readBytes 0 s.cur = .ok bs) :
    drainDone s = .next { s with st := .idle, buf := [], res := .ok (.bytes bs) } := by
  unfold drainDone
  rw [memRead_ok h]
  rfl

/-- DONE answers a next state only with the bytes of the buffer as the result. -/
theorem drainDone_cases {s t : State} (h : drainDone s = .next t) :
    ∃ bs, s.buf.readBytes 0 s.cur = .ok bs ∧ t = { s with st := .idle, buf := [], res := .ok (.bytes bs) } := by
  unfold drainDone memRead at h
  cases hr : s.buf.readBytes 0 s.cur with
  | ok bs => rw [hr] at h; exact ⟨bs, rfl, (Host.Outcome.next.inj h).symm⟩
  | error i => rw [hr] at h; cases h

/-! ## One step -/

theorem step_receiving {s : State} (h : receiving s.st = true) : step s = drainStep s := by
  simp [step, nextAction, h]

theorem step_resting {s : State} (h : receiving s.st = false) (hr : s.requests = []) : step s = .next s := by
  simp [step, nextAction, h, hr]

theorem step_configure {s : State} {w : CfgWrite} {rest : List Request} (h : receiving s.st = false)
    (hr : s.requests = .configure w :: rest) : step s = configure w { s with requests := rest } := by
  simp [step, nextAction, h, hr]

theorem step_command {s : State} {word : Byte} {x : List Byte} {t : Nat} {rest : List Request} {i : Instr}
    (h : receiving s.st = false) (hr : s.requests = .command word x t :: rest) (hd : decode word = .ok i) :
    step s = exec i (takeCommand rest x t s) := by
  simp [step, nextAction, h, hr, hd]

/-- Everything a step that answers a next state can be. -/
theorem step_cases {s t : State} (h : step s = .next t) :
    (receiving s.st = true ∧ drainStep s = .next t) ∨
      (receiving s.st = false ∧ s.requests = [] ∧ t = s) ∨
      (receiving s.st = false ∧ ∃ w rest, s.requests = .configure w :: rest ∧
        configure w { s with requests := rest } = .next t) ∨
      (receiving s.st = false ∧ ∃ word x tm rest i, s.requests = .command word x tm :: rest ∧ decode word = .ok i ∧
        exec i (takeCommand rest x tm s) = .next t) := by
  cases hrec : receiving s.st with
  | true => exact .inl ⟨rfl, by rw [← step_receiving hrec]; exact h⟩
  | false =>
    match hr : s.requests with
    | [] => rw [step_resting hrec hr] at h; exact .inr (.inl ⟨rfl, rfl, by simpa using h.symm⟩)
    | .configure w :: rest =>
      rw [step_configure hrec hr] at h
      exact .inr (.inr (.inl ⟨rfl, w, rest, rfl, h⟩))
    | .command word x tm :: rest =>
      cases hd : decode word with
      | ok i =>
        rw [step_command hrec hr hd] at h
        exact .inr (.inr (.inr ⟨rfl, word, x, tm, rest, i, rfl, hd, h⟩))
      | error e =>
        cases e with
        | reservedCommand w => simp [step, nextAction, hrec, hr, hd] at h

/-- A configuration write that answers a next state found none set and set a legal record (10_state.md R24). -/
theorem configure_cases {w : CfgWrite} {s t : State} (h : configure w s = .next t) :
    s.cfg = none ∧ w.variant = .framed ∧
      ∃ g, strategyOfCode w.strategyCode = some g ∧ (cfgOf g w).emptyBudget ≠ 0 ∧ t = { s with cfg := some (cfgOf g w) } := by
  unfold configure at h
  split at h
  · cases h
  · next hc =>
    split at h
    · cases h
    · next hv =>
      split at h
      · cases h
      · next g hg =>
        split at h
        · cases h
        · next hb => exact ⟨by simpa using hc, by simpa using hv, g, hg, hb, by simpa using h.symm⟩

/-- A RECEIVE that answers a next state found IDLE and a configuration, and has started (40_fifo_drain.md R101). -/
theorem execReceive_cases {s t : State} (h : execReceive s = .next t) :
    s.st = .idle ∧ s.cfg ≠ none ∧ t = startReceive s := by
  unfold execReceive at h
  cases hc : s.cfg with
  | none =>
    rw [hc] at h
    simp only at h
    split at h <;> cases h
  | some c =>
    rw [hc] at h
    obtain ⟨h1, h2⟩ := operate_cases h
    exact ⟨h1, by simp, h2⟩

end Sys2Proof.Machine
end

