-- ==== Sys2Proof/Laws/PerInstr.lean ====
section
/-! SUPPORT. The statements made of every operation as syntax: its command word has exactly one row in the operation table,
and that row is its own (30_encoding.md R86, R87). -/

namespace Sys2Proof.Laws

/-- The operation table has one row for the operation's word: the word, all eight bits compared, and the operation. -/
def EncodingRow.Statement (i : Instr) : Prop := matchingRows (encode i) = [⟨encode i, 0xFF, i⟩]

theorem EncodingRow.lineEnc : EncodingRow.Statement .lineEnc := by unfold Statement; decide
theorem EncodingRow.lineDec : EncodingRow.Statement .lineDec := by unfold Statement; decide
theorem EncodingRow.serEnc : EncodingRow.Statement .serEnc := by unfold Statement; decide
theorem EncodingRow.serDec : EncodingRow.Statement .serDec := by unfold Statement; decide
theorem EncodingRow.receive : EncodingRow.Statement .receive := by unfold Statement; decide
theorem EncodingRow.fdecAddr : EncodingRow.Statement .fdecAddr := by unfold Statement; decide
theorem EncodingRow.fdecRaw : EncodingRow.Statement .fdecRaw := by unfold Statement; decide
theorem EncodingRow.fdecLine : EncodingRow.Statement .fdecLine := by unfold Statement; decide
theorem EncodingRow.wait : EncodingRow.Statement .wait := by unfold Statement; decide

end Sys2Proof.Laws
end

