-- ==== Sys2Proof/Tests/Slice0.lean ====
section
/-! SUPPORT. The model's own tests, from the vectors of 95_test_vectors.md, and for every statement with hypotheses a
witness: a concrete state and operands that meet them. -/

namespace Sys2Proof.Tests

open Sys2Proof Sys2Proof.Machine

/-! ## Helpers -/

/-- The configuration of the tests: the defaults of 10_state.md R24 and three distinct bus constants. -/
def cfgT : Cfg := ⟨.addressed, 10, 2000, 0x3F, 0x3B, 0x3A⟩

/-- A block at IDLE with that configuration; HDR_OVF holds of 0x6F alone (V-S4). -/
def base : State := { State.reset with cfg := some cfgT, hdrOvfBytes := [0x6F] }

/-- The block with a list as the operand. -/
def given (x : List Byte) : State := { base with operand := x }

/-- The block in a state of the drain, with answers to come. -/
def inState (st : DrainState) (bus : List BusAnswer) : State := { base with st := st, bus := bus }

/-- The block at QUERY with a status byte to come. -/
def queryAt (b : Byte) (cur tgt empty : Nat) : State :=
  { inState .query [.answers b []] with cur := cur, tgt := tgt, empty := empty }

/-- The block with one command issued. -/
def issued (word : Byte) (x : List Byte) : State := { base with requests := [.command word x 0] }

/-- The next state of an outcome, the given state when there is none. -/
def nextOr (s : State) (o : Host.Outcome State Fault Refusal) : State :=
  match o with
  | .next t => t
  | .fault _ => s
  | .refused _ => s

/-- The result after an operation on a list. -/
def resultOf (i : Instr) (x : List Byte) : Option Result :=
  match exec i (given x) with
  | .next t => some t.res
  | .fault _ => none
  | .refused _ => none

/-- The smallest frame (V-D18): length 1, three bytes available, three bytes read. -/
def smallestFrame : State := { base with bus := [.answers 0 [1], .answers 3 [], .answers 0 [0xAA, 0x10, 0x85]] }

/-- How it ends. -/
def smallestEnd : Ended :=
  ⟨.ok (.bytes [0xAA, 0x10, 0x85]), .idle,
    [.burstRead 0x3F 1 0 [1], .status 0x3B 3, .burstRead 0x3F 3 0 [0xAA, 0x10, 0x85]]⟩

/-! ## Well-formedness -/

/-- A legal configuration write. -/
def goodWrite : CfgWrite := ⟨.framed, 2, none, none, 0x3F, 0x3B, 0x3A⟩

theorem test_wf_good_write : goodWrite.wf = true := by decide
theorem test_wf_other_variant : (CfgWrite.wf { goodWrite with variant := .strictFraming }) = false := by decide
theorem test_wf_reserved_strategy : (CfgWrite.wf { goodWrite with strategyCode := 3 }) = false := by decide
theorem test_wf_zero_budget : (CfgWrite.wf { goodWrite with emptyBudget := some 0 }) = false := by decide
theorem test_wf_cfg_zero_budget : (Cfg.wf { cfgT with emptyBudget := 0 }) = false := by decide
theorem test_wf_table_repeats : tableInjective (Config.manchesterTable.set 1 0xAA) = false := by decide
theorem test_wf_table_unbalanced : tableAdmissible (Config.manchesterTable.set 1 0xAB) = false := by decide

/-! ## Decoding (30_encoding.md R85 to R87; each word is written from its unit and function fields) -/

theorem test_decode_line_enc : decode 0b00010000 = .ok .lineEnc := by decide
theorem test_decode_line_dec : decode 0b00010001 = .ok .lineDec := by decide
theorem test_decode_ser_enc : decode 0b00100000 = .ok .serEnc := by decide
theorem test_decode_ser_dec : decode 0b00100001 = .ok .serDec := by decide
theorem test_decode_receive : decode 0b00110000 = .ok .receive := by decide
theorem test_decode_fdec_addr : decode 0b01000000 = .ok .fdecAddr := by decide
theorem test_decode_fdec_raw : decode 0b01000001 = .ok .fdecRaw := by decide
theorem test_decode_fdec_line : decode 0b01000010 = .ok .fdecLine := by decide
theorem test_decode_wait : decode 0b01010000 = .ok .wait := by decide

/-- 95_test_vectors.md 2.7: the refused words it lists. -/
theorem test_decode_reserved :
    ([0x00, 0x12, 0x1F, 0x22, 0x31, 0x43, 0x4F, 0x51, 0x60, 0xFF] : List Byte).all
      (fun w => decide (decode w = .error (.reservedCommand w))) = true := by decide

theorem test_decode_table_word : decodeTableWord 8 0x42 = some .fdecLine := by decide

/-! ## Operations (vectors of 95_test_vectors.md) -/

/-- V-L8. -/
theorem test_line_enc : resultOf .lineEnc [0x12, 0x34] = some (.ok (.bytes [0xA9, 0xA6, 0xA5, 0x9A])) := by decide

/-- V-L18: nothing of the good pair is returned. -/
theorem test_line_dec_atomic : resultOf .lineDec [0xA9, 0xA6, 0xFF, 0xAA] = some (.err .codecError) := by decide

/-- V-L13. -/
theorem test_line_dec : resultOf .lineDec [0xA9, 0xA6, 0xA5, 0x9A] = some (.ok (.bytes [0x12, 0x34])) := by decide

/-- V-B9. -/
theorem test_ser_enc : resultOf .serEnc [0x33, 0x55, 0x53] = some (.ok (.bytes [0x66, 0x55, 0x56, 0x54])) := by decide

/-- V-B21: two bits are dropped. -/
theorem test_ser_dec : resultOf .serDec [0x66, 0x55, 0x59, 0x95] = some (.ok (.bytes [0x33, 0x55, 0x4C])) := by decide

/-- V-B17: the start bit is not checked. -/
theorem test_ser_dec_start_bit : resultOf .serDec [0xE6, 0x40] = some (.ok (.bytes [0x33])) := by decide

/-- V-F5: extreme values. -/
theorem test_fdec_addr :
    resultOf .fdecAddr [0xFF, 0x00, 0xAA, 0x80, 0xFF] = some (.ok (.frame ⟨[0xAA], 0x00, 0xFF, -138, 127, true⟩)) := by
  decide

/-- V-F4. -/
theorem test_fdec_addr_crc : resultOf .fdecAddr [0x01, 0x02, 0x41, 0x42, 0x10, 0x05] = some (.err .crcError) := by decide

/-- V-F6: raw mode reports zeros. -/
theorem test_fdec_raw :
    resultOf .fdecRaw [0x41, 0x42, 0x43, 0x10, 0x85] = some (.ok (.frame ⟨[0x41, 0x42, 0x43], 0, 0, 0, 0, true⟩)) := by
  decide

/-- V-F26: the first marker cuts the region. -/
theorem test_fdec_line :
    resultOf .fdecLine [0x33, 0x55, 0x53, 0x4D, 0x4D, 0x53, 0x35, 0x35, 0x53, 0x4D, 0x53, 0x55, 0x55, 0x35, 0xC8, 0xB0] =
      some (.ok (.frame ⟨[0xDE], 0, 0, -102, 48, true⟩)) := by
  decide

/-- V-F23: the codec error comes before the CRC flag. -/
theorem test_fdec_line_order :
    resultOf .fdecLine [0x33, 0x55, 0x53, 0x4A, 0xCC, 0xB7, 0xFC, 0xB3, 0x35, 0xC8, 0x30] = some (.err .codecError) := by
  decide

/-- V-D6: the zero test comes before HDR_OVF. -/
theorem test_receive_header :
    (nextOr base (step (inState .hdr [.answers 0x6F [0x00]]))).pending = .invalidLength := by decide

/-- V-D21: the overflow bit with count 0 is an overflow. -/
theorem test_receive_query : (nextOr base (step (queryAt 0x80 0 7 0))).pending = .overflow := by decide

/-- V-D19, by the pseudocode of R124: zero-length chunks issue no primitive and pause. -/
theorem test_receive_pseudocode :
    (receiveWhole cfgT [] [.answers 0 [1], .answers 1 [], .answers 1 [], .answers 3 [], .answers 0 [7, 8, 9]] 0).map Ended.trace =
      some [.burstRead 0x3F 1 0 [1], .status 0x3B 1, .pause 2000, .status 0x3B 1, .pause 2000, .status 0x3B 3,
        .burstRead 0x3F 3 0 [7, 8, 9]] := by
  decide

/-- V-W3: cancellation has precedence. -/
theorem test_wait_cancelled :
    (nextOr base (exec .wait { base with cancelReady := true, wakes := [⟨true, none⟩] })).res =
      .ok (.outcome .cancelled) := by decide

/-- V-W6: an edge latched before the call is cleared. -/
theorem test_wait_stale_edge :
    (nextOr base (exec .wait { base with irqLatched := true, wakes := [⟨false, none⟩] })).res =
      .ok (.outcome .timeout) := by decide

/-- Program P2, step 2: the reference environment gives that trace, five bytes arriving after the pause. -/
theorem test_ref_env :
    refAccepts cfgT [0x6F]
      [(0, .burstRead 0x3F 1 0 [0x09]), (0, .status 0x3B 6), (0, .burstRead 0x3F 5 0 [0x33, 0x55, 0x53, 0x4A, 0xCC]),
        (0, .pause 2000), (5, .status 0x3B 6), (0, .burstRead 0x3F 6 0 [0xB5, 0x2C, 0xB3, 0x35, 0xC8, 0xB0])]
      ⟨[0x09, 0x33, 0x55, 0x53, 0x4A, 0xCC, 0xB5], false, [0x2C, 0xB3, 0x35, 0xC8, 0xB0]⟩ = some ⟨[], false, []⟩ := by
  decide

/-- A placed command is the next one to run, from reset on. -/
theorem test_fetch_word : (nextOr base (step (State.reset.withFetchWord 8 0x30))).st = .hdr := by decide

/-! ## Witnesses: encoding and steps -/

theorem witness_ReservedWordsAreRefused :
    (∀ i, (0x31 : Byte) ≠ encode i) ∧ receiving (issued 0x31 []).st = false ∧
      (issued 0x31 []).requests = [.command 0x31 [] 0] := by
  exact ⟨fun i => by cases i <;> decide, by decide, by decide⟩

theorem witness_StepRunsTheIssuedCommand :
    receiving (issued 0x10 [0x12]).st = false ∧ (issued 0x10 [0x12]).requests = [.command 0x10 [0x12] 0] ∧
      decode 0x10 = .ok .lineEnc := by decide

theorem witness_ReceiveIsNotPreemptible : receiving (inState .hdr []).st = true := by decide

theorem witness_CancellationIsSeenOnlyByWait :
    Instr.receive ≠ .wait ∧ receiving (inState .done []).st = true ∧
      (fun s : State => s.st = .idle ∧ s.cancelReady = true ∧ s.wakes = [⟨true, none⟩])
        { base with cancelReady := true, wakes := [⟨true, none⟩] } := by decide

theorem witness_FreeAnswerIsSomeAnswer :
    (inState .hdr []).bus = [] ∧ (inState .hdr []).st = .hdr ∧ (inState .query []).st = .query ∧
      (inState .flush []).st = .flush ∧
      (fun s : State => s.bus = [] ∧ s.st = .read ∧ s.n ≠ 0) { inState .read [] with n := 1 } := by decide

theorem witness_ConfigurationIsConstantOnceSet :
    step (issued 0x10 [0x12]) = .next (nextOr base (step (issued 0x10 [0x12]))) ∧
      (issued 0x10 [0x12]).cfg = some cfgT := by
  exact ⟨rfl, rfl⟩

theorem witness_ResultIsWrittenOnlyAtTheEnd :
    exec .receive base = .next (nextOr base (exec .receive base)) ∧
      step (queryAt 0x41 0 7 0) = .next (nextOr base (step (queryAt 0x41 0 7 0))) ∧
      receiving (queryAt 0x41 0 7 0).st = true ∧ receiving (nextOr base (step (queryAt 0x41 0 7 0))).st = true := by
  exact ⟨rfl, rfl, by decide, by decide⟩

theorem witness_PureOperationsChangeOnlyTheResult :
    pureOp .fdecLine = true ∧ base.st = .idle ∧
      exec .fdecLine base = .next (nextOr base (exec .fdecLine base)) := by
  exact ⟨rfl, rfl, rfl⟩

/-! ## Witnesses: the codecs -/

theorem witness_LineEncodeGivesTwoSymbolsPerByte :
    (given [0x12, 0x34]).st = .idle ∧ (given [0x12, 0x34]).operand[1]? = some 0x34 := by decide

theorem witness_LineDecodeOfSymbols :
    (given [0xAA, 0x55]).st = .idle ∧ tableInjective (given [0xAA, 0x55]).lineTable = true ∧
      (given [0xAA, 0x55]).operand.length % 2 = 0 ∧
      ∀ b ∈ (given [0xAA, 0x55]).operand, ∃ v, symbolOf (given [0xAA, 0x55]).lineTable v = b := by
  refine ⟨by decide, by decide, by decide, ?_⟩
  intro b hb
  rcases List.mem_cons.1 hb with rfl | hb
  · exact ⟨0x0, by decide⟩
  · exact ⟨0xF, by rw [List.mem_singleton.1 hb]; decide⟩

/-- V-L16: 0xAB is no symbol. -/
theorem witness_LineDecodeFailsAtomically :
    (given [0xAA, 0xAB]).st = .idle ∧
      ∃ b ∈ (given [0xAA, 0xAB]).operand, ∀ v, symbolOf (given [0xAA, 0xAB]).lineTable v ≠ b := by
  exact ⟨rfl, 0xAB, by decide, by decide⟩

/-- V-L14. -/
theorem witness_LineDecodeOfOddLengthFails :
    (given [0xAA]).st = .idle ∧ (given [0xAA]).operand.length % 2 = 1 := by decide

theorem witness_LineDecodeOfLineEncodeIsIdentity :
    (given [0x12]).st = .idle ∧ tableInjective (given [0x12]).lineTable = true ∧
      exec .lineEnc (given [0x12]) = .next (nextOr base (exec .lineEnc (given [0x12]))) := by
  exact ⟨rfl, by decide, rfl⟩

theorem witness_LineDecodesExactlyTheEncodings :
    (given [0xA9, 0xA6]).st = .idle ∧ tableInjective (given [0xA9, 0xA6]).lineTable = true ∧
      exec .lineDec (given [0xA9, 0xA6]) =
        .next { given [0xA9, 0xA6] with trace := [], res := .ok (.bytes [0x12]) } := by
  exact ⟨rfl, by decide, rfl⟩

theorem witness_FlattenIsMostSignificantBitFirst :
    ([0x12, 0x80] : List Byte)[1]? = some 0x80 ∧ 7 < 8 ∧ (List.replicate 16 true).length % 8 = 0 := by decide

theorem witness_SerialEncodeFramesEachByte :
    (given [0x33]).st = .idle ∧ (given [0x33]).operand[0]? = some 0x33 ∧ 10 * (given [0x33]).operand.length ≤ 15 ∧
      15 < 8 * (serEncode false [0x33]).length := by decide

theorem witness_SerialDecodeStripsEachCharacter :
    (given [0x66, 0x40]).st = .idle ∧ (serDecode [0x66, 0x40])[0]? = some 0x33 := by decide

/-- V-B15 and V-B17: the same data bits under another start bit. -/
theorem witness_StartAndStopBitsAreIgnored :
    (given [0x66, 0x40]).st = .idle ∧ ([0xE6, 0x40] : List Byte).length = (given [0x66, 0x40]).operand.length ∧
      ∀ k, k < 8 * ([0xE6, 0x40] : List Byte).length / 10 → ∀ i, i < 8 →
        (flatten [0xE6, 0x40])[10 * k + 1 + i]? = (flatten (given [0x66, 0x40]).operand)[10 * k + 1 + i]? := by decide

theorem witness_SerialDecodeOfSerialEncodeIsIdentity :
    (given [0x33]).st = .idle ∧ exec .serEnc (given [0x33]) = .next (nextOr base (exec .serEnc (given [0x33]))) := by
  exact ⟨rfl, rfl⟩

/-! ## Witnesses: the frame decoder -/

/-- V-F3, V-F2, V-F4. -/
theorem witness_AddressedFrameResult :
    (given [0x01, 0x02, 0x85]).operand.length < 4 ∧
      (given [0x01, 0x02, 0x10, 0x85]).operand = 0x01 :: 0x02 :: ([] ++ [0x10, 0x85]) ∧
      (0x85 : Byte).getLsbD 7 = true ∧ (0x05 : Byte).getLsbD 7 = false := by decide

/-- V-F8, V-F7, V-F10. -/
theorem witness_RawFrameResult :
    (given [0x85]).operand.length < 2 ∧ (given [0x10, 0x85]).operand = [] ++ [0x10, 0x85] ∧
      (0x85 : Byte).getLsbD 7 = true ∧ (0x10 : Byte).getLsbD 7 = false := by decide

/-- V-F18 (the pipeline fails), V-F16 (empty region), and a clear CRC flag. -/
theorem witness_EncodedLineFrameResult :
    (0x35 : Byte) ∉ ([0x4A, 0xCC] : List Byte) ∧
      (given [0x33, 0x55, 0x53, 0x4A, 0xCC, 0x35, 0xC8, 0xB0]).operand =
        [0x33, 0x55, 0x53] ++ [0x4A, 0xCC] ++ [0x35] ++ [] ++ [0xC8, 0xB0] ∧
      lineDecode Config.manchesterTable (serDecode [0x4A, 0xCC]) = .error .codecError ∧
      (given [0x33, 0x55, 0x53, 0x35, 0xC8, 0xB0]).operand =
        [0x33, 0x55, 0x53] ++ [] ++ [0x35] ++ [] ++ [0xC8, 0xB0] ∧
      lineDecode Config.manchesterTable (serDecode []) = .ok [] ∧ (0xB0 : Byte).getLsbD 7 = true ∧
      (0x30 : Byte).getLsbD 7 = false := by decide

/-- V-F13, V-F14, V-F12 (the shortest frame with an empty body). -/
theorem witness_EncodedLineFrameErrors :
    (given [0x33, 0x55, 0x53, 0xC8]).operand.length < 5 ∧
      5 ≤ (given [0x33, 0x55, 0x54, 0xC8, 0xB0]).operand.length ∧
      (given [0x33, 0x55, 0x54, 0xC8, 0xB0]).operand.take 3 ≠ [0x33, 0x55, 0x53] ∧
      (0x35 : Byte) ∉ ([] : List Byte) ∧
      (given [0x33, 0x55, 0x53, 0xC8, 0xB0]).operand = [0x33, 0x55, 0x53] ++ [] ++ [0xC8, 0xB0] := by decide

/-- V-F20. -/
theorem witness_EncodedPayloadIsRecovered :
    tableInjective base.lineTable = true ∧
      (0x35 : Byte) ∉ serEncode Config.serPadBit (lineEncode base.lineTable [0x12, 0x34]) ∧ (0xB0 : Byte).getLsbD 7 = true ∧
      (given [0x33, 0x55, 0x53, 0x4A, 0xCC, 0xB5, 0x2C, 0xB3, 0x35, 0xC8, 0xB0]).operand =
        [0x33, 0x55, 0x53] ++ serEncode Config.serPadBit (lineEncode base.lineTable [0x12, 0x34]) ++ [0x35] ++ [] ++
          [0xC8, 0xB0] := by decide

/-- The result of FDEC_RAW on a frame whose last byte is 0x85 (V-F7), and an operand with a clear flag to come. -/
def decoded : State :=
  { issued 0x41 [0x10, 0x05] with operand := [0x10, 0x85], res := .ok (.frame ⟨[], 0, 0, 0, 0, true⟩) }

theorem decoded_checked : FrameChecked decoded := by
  intro f h
  cases h
  exact ⟨rfl, by decide, fun _ => ⟨0x85, by decide, by decide⟩⟩

theorem witness_FramesInTheResultPassedTheCheck :
    FrameChecked decoded ∧ step decoded = .next (nextOr base (step decoded)) := by
  exact ⟨decoded_checked, rfl⟩

/-! ## Witnesses: WAIT and the transitions of RECEIVE -/

theorem witness_WaitReportsByPriority :
    base.st = .idle ∧ ({ base with wakes := [⟨true, none⟩] } : State).wakes = ⟨true, none⟩ :: [] := by decide

theorem witness_ReceiveStartsAfresh : base.st = .idle ∧ base.cfg = some cfgT := by decide

/-- The length bytes 0, 1 and 255, with and without the header overflow. -/
theorem witness_HeaderTransition :
    (inState .hdr [.answers 0 [255]]).st = .hdr ∧ (inState .hdr [.answers 0 [255]]).cfg = some cfgT ∧
      (inState .hdr [.answers 0 [255]]).bus = [.answers 0 (255 :: [])] ∧ (255 : Byte) ≠ 0 ∧ (1 : Byte) ≠ 0 ∧
      (0x6F : Byte) ∈ (inState .hdr []).hdrOvfBytes ∧ (0 : Byte) ∉ (inState .hdr []).hdrOvfBytes ∧
      (inState .hdr [.answers 0x6F [0]]).bus = [.answers 0x6F (0 :: [])] := by decide

/-- One status byte for each clause, at the edges: 0x80; 0 with the ninth and the tenth empty observation; 65 and 127;
64 and 1 completing the frame exactly; a count one short of it. -/
theorem witness_QueryTransition :
    (queryAt 0x80 0 7 0).st = .query ∧ (queryAt 0x80 0 7 0).cfg = some cfgT ∧
      (queryAt 0x80 0 7 0).bus = [.answers 0x80 []] ∧ (0x80 : Byte).getLsbD 7 = true ∧
      ((0x00 : Byte).extractLsb' 0 7).toNat = 0 ∧ cfgT.emptyBudget.toNat ≤ (queryAt 0 0 7 9).empty + 1 ∧
      (queryAt 0 0 7 8).empty + 1 < cfgT.emptyBudget.toNat ∧
      64 < ((0x41 : Byte).extractLsb' 0 7).toNat ∧ 64 < ((0x7F : Byte).extractLsb' 0 7).toNat ∧
      (0x7F : Byte).getLsbD 7 = false ∧
      (queryAt 0x40 0 64 0).tgt ≤ (queryAt 0x40 0 64 0).cur + ((0x40 : Byte).extractLsb' 0 7).toNat ∧
      (queryAt 0x01 6 7 0).tgt ≤ (queryAt 0x01 6 7 0).cur + ((0x01 : Byte).extractLsb' 0 7).toNat ∧
      (queryAt 0x01 5 7 0).cur + ((0x01 : Byte).extractLsb' 0 7).toNat < (queryAt 0x01 5 7 0).tgt := by decide

/-- The overflow bit with every count bit set, and with none. -/
theorem witness_OverflowBitEndsInOneFlush :
    (inState .query [.answers 0xFF [], .answers 0 []]).st = .query ∧
      (inState .query [.answers 0xFF [], .answers 0 []]).cfg = some cfgT ∧
      (inState .query [.answers 0xFF [], .answers 0 []]).bus = [.answers 0xFF [], .answers 0 []] ∧
      (0xFF : Byte).getLsbD 7 = true ∧ (0x80 : Byte).getLsbD 7 = true := by decide

/-- An empty chunk, and the 64 bytes at 255 of V-D26, as far as the buffer goes. -/
theorem witness_ReadTransition :
    (inState .read []).st = .read ∧ (inState .read []).cfg = some cfgT ∧ (inState .read []).n = 0 ∧
      (fun s : State => s.n ≠ 0 ∧ s.bus = [.answers 0 (List.replicate 64 0xAA)] ∧
          (List.replicate 64 (0xAA : Byte)).length = s.n ∧ s.cur + s.n ≤ 320)
        { inState .read [.answers 0 (List.replicate 64 0xAA)] with n := 64, cur := 255, tgt := 257 } := by decide

theorem witness_PauseTransition :
    (inState .pauseP []).st = .pauseP ∧ (inState .pauseE []).st = .pauseE ∧ (inState .pauseE []).cfg = some cfgT := by
  decide

theorem witness_FlushTransition :
    (inState .flush [.answers 0 []]).st = .flush ∧ (inState .flush [.answers 0 []]).cfg = some cfgT ∧
      (inState .flush [.answers 0 []]).bus = [.answers 0 []] := by decide

theorem witness_DoneTransition :
    (fun s : State => s.st = .done ∧ s.cfg = some cfgT ∧ ([7, 8] : List Byte).length = s.cur ∧
        ∀ i, i < s.cur → Memory.read s.buf i = ([7, 8] : List Byte)[i]?)
      { inState .done [] with cur := 2, buf := [(0, 7), (1, 8)] } := by decide

theorem witness_BusFaultEntersFault :
    (inState .hdr [.fails]).cfg = some cfgT ∧ (inState .hdr [.fails]).bus = [.fails] ∧ (inState .hdr [.fails]).st = .hdr ∧
      (inState .query [.fails]).st = .query ∧ (inState .flush [.fails]).st = .flush ∧
      (fun s : State => s.bus = [.fails] ∧ s.st = .read ∧ s.n ≠ 0) { inState .read [.fails] with n := 64 } := by decide

theorem witness_FaultIsNeverLeft :
    (inState .fault []).st = .fault ∧ step (inState .fault []) = .next (inState .fault []) := by
  exact ⟨rfl, rfl⟩

theorem witness_ConcurrentOperationsAreRefused :
    receiving (inState .pauseP []).st = true ∧ (Instr.receive = .receive → (inState .pauseP []).cfg ≠ none) := by decide

theorem witness_OnlyReceiveNeedsTheConfiguration :
    State.reset.st = .idle ∧ State.reset.cfg = none ∧ Instr.wait ≠ .receive := by decide

/-- A write that is legal, and one for each ground of refusal. -/
theorem witness_ConfigurationWrite :
    (fun s : State => receiving s.st = false ∧ s.requests = [.configure goodWrite] ∧ s.cfg = none)
        { State.reset with requests := [.configure goodWrite] } ∧
      goodWrite.variant = .framed ∧ goodWrite.strategyCode ≠ 3 ∧ goodWrite.emptyBudget ≠ some 0 ∧ base.cfg ≠ none ∧
      ({ goodWrite with variant := .rawTriggered } : CfgWrite).variant ≠ .framed ∧
      ({ goodWrite with strategyCode := 3 } : CfgWrite).strategyCode = 3 ∧
      ({ goodWrite with emptyBudget := some 0 } : CfgWrite).emptyBudget = some 0 := by decide

/-! ## Witnesses: RECEIVE as a whole -/

/-- V-D7 from its first status read on. -/
theorem witness_EmptyBudgetEndsInReceiveTimeout :
    (fun s : State => s.st = .query ∧ s.cfg = some cfgT ∧ cfgT.emptyBudget ≠ 0 ∧ s.empty = 0 ∧
        s.bus = List.replicate cfgT.emptyBudget.toNat (.answers 0 []) ++ .answers 0 [] :: [])
      { inState .query (List.replicate 11 (.answers 0 [])) with tgt := 7 } := by decide

theorem witness_MachineEndsAsThePseudocode :
    smallestFrame.st = .idle ∧ smallestFrame.cfg = some cfgT ∧
      receiveWhole cfgT smallestFrame.hdrOvfBytes smallestFrame.bus smallestFrame.draws = some smallestEnd := by decide

theorem smallestFrame_receiving : receivingFor 4 smallestFrame := by
  intro j hj
  match j, hj with
  | 0, _ => exact ⟨nextOr base (execThenSteps .receive 0 smallestFrame), rfl, by decide⟩
  | 1, _ => exact ⟨nextOr base (execThenSteps .receive 1 smallestFrame), rfl, by decide⟩
  | 2, _ => exact ⟨nextOr base (execThenSteps .receive 2 smallestFrame), rfl, by decide⟩
  | 3, _ => exact ⟨nextOr base (execThenSteps .receive 3 smallestFrame), rfl, by decide⟩

theorem witness_PseudocodeEndsAsTheMachine :
    smallestFrame.st = .idle ∧ smallestFrame.cfg = some cfgT ∧ receivingFor 4 smallestFrame ∧
      execThenSteps .receive 4 smallestFrame = .next (nextOr base (execThenSteps .receive 4 smallestFrame)) ∧
      receiving (nextOr base (execThenSteps .receive 4 smallestFrame)).st = false ∧
      (nextOr base (execThenSteps .receive 4 smallestFrame)).draws ≤
        smallestFrame.draws + smallestFrame.bus.length := by
  exact ⟨rfl, rfl, smallestFrame_receiving, rfl, by decide, by decide⟩

/-- Two blocks that differ in what an earlier packet left. -/
theorem witness_NoStateLeaksBetweenPackets :
    (fun s₂ : State => smallestFrame.st = .idle ∧ s₂.st = .idle ∧ smallestFrame.cfg = some cfgT ∧ s₂.cfg = some cfgT ∧
        smallestFrame.hdrOvfBytes = s₂.hdrOvfBytes ∧ smallestFrame.bus = s₂.bus ∧ smallestFrame.draws = s₂.draws)
      { smallestFrame with cur := 9, tgt := 11, empty := 3, buf := [(0, 7)], len := 9, res := .err .overflow } ∧
    receivingFor 4 smallestFrame ∧
    execThenSteps .receive 4 smallestFrame = .next (nextOr base (execThenSteps .receive 4 smallestFrame)) := by
  exact ⟨by decide, smallestFrame_receiving, rfl⟩

/-- V-D22, V-D23, V-D24, two answers each. -/
theorem witness_ReceiveNeedNotTerminate :
    (queryAt 0 2 7 0).st = .query ∧ (queryAt 0 2 7 0).cfg = some cfgT ∧ (0x7F : Byte).getLsbD 7 = false ∧
      64 < (0x7F : Byte).toNat ∧ (inState .query [.answers 0x7F [], .answers 0x7F []]).bus = List.replicate 2 (.answers 0x7F []) ∧
      (queryAt 0 2 7 0).cur + 1 < (queryAt 0 2 7 0).tgt ∧
      (inState .query [.answers 1 [], .answers 1 []]).bus = List.replicate 2 (.answers 1 []) ∧
      (queryAt 0 2 7 0).empty = 0 ∧ 2 ≤ cfgT.emptyBudget.toNat ∧
      (inState .query [.answers 0 [], .answers 1 []]).bus =
        (List.replicate 1 [.answers 0 [], .answers 1 []]).flatten := by decide

theorem witness_ReceiveEndsWhenEveryAnswerShowsData :
    (fun s : State => s.st = .idle ∧ s.cfg = some cfgT ∧ 520 ≤ s.bus.length ∧
        ∀ a ∈ s.bus, ∃ b data, a = .answers b data ∧ b.getLsbD 7 = false ∧ 2 ≤ b.toNat ∧ b.toNat ≤ 64)
      { base with bus := List.replicate 520 (.answers 2 []) } := by
  refine ⟨rfl, rfl, Nat.le_of_eq List.length_replicate.symm, ?_⟩
  intro a ha
  exact ⟨2, [], List.eq_of_mem_replicate ha, by decide, by decide, by decide⟩

/-! ## Witnesses: invariants and the caller -/

theorem witness_ResetLeavesTheSpecsValues :
    State.reset = State.reset ∧ ∃ u, resetBlock { base with irqLatched := true } = resetBlock u :=
  ⟨rfl, { base with irqLatched := true }, rfl⟩

/-- A block in the middle of a frame: at READ, two bytes read, five to come. -/
def midFrame : State :=
  { inState .read [.answers 0 [1, 2, 3, 4, 5]] with
    tgt := 7, cur := 2, avail := 5, n := 5, last := true, buf := [(0, 7), (1, 8)] }

theorem midFrame_inv : BlockInv midFrame :=
  ⟨by decide, by decide, by decide, by decide, by decide, by decide, by decide, by decide, by decide⟩

theorem midFrame_step : step midFrame = .next (nextOr base (step midFrame)) := rfl

theorem witness_EveryStepKeepsTheInvariant : BlockInv midFrame ∧ step midFrame = .next (nextOr base (step midFrame)) :=
  ⟨midFrame_inv, midFrame_step⟩

theorem witness_NoStepFaults : BlockInv midFrame := midFrame_inv

/-- At READ, then DONE, with a chunk that offers no more than the frame needs; and at QUERY after a garbage answer. -/
theorem witness_RegistersStayInRange :
    BlockInv midFrame ∧ step midFrame = .next (nextOr base (step midFrame)) ∧ midFrame.st = .read ∧
      (nextOr base (step midFrame)).st = .done ∧ midFrame.avail ≤ midFrame.tgt - midFrame.cur ∧
      (nextOr base (step (queryAt 0x41 0 7 0))).st = .query ∧ BlockInv (queryAt 0x41 0 7 0) := by
  exact ⟨midFrame_inv, midFrame_step, rfl, by decide, by decide, by decide,
    ⟨by decide, by decide, by decide, by decide, by decide, by decide, by decide, by decide, by decide⟩⟩

/-- At FLUSH after a status byte 0x80. -/
theorem witness_ExactlyOneFlushOnRecoverableErrors :
    (fun s : State => BlockInv s ∧ StrobeInv s ∧ step s = .next (nextOr base (step s)))
      { inState .flush [.answers 0 []] with pending := .overflow, trace := [.status 0x3B 0x80] } := by
  exact ⟨⟨by decide, by decide, by decide, by decide, by decide, by decide, by decide, by decide, by decide⟩, ⟨fun _ => rfl, fun h => nomatch h⟩, rfl⟩

theorem witness_BusTraceIsLegal :
    BlockInv midFrame ∧ (∀ e ∈ midFrame.trace, eventLegal e = true) ∧
      step midFrame = .next (nextOr base (step midFrame)) := by
  exact ⟨midFrame_inv, by decide, midFrame_step⟩

/-- A full queue of 64 bytes and one byte still to come. -/
theorem witness_TruthfulStatusNeverUnderflows :
    (fun e : RefEnv => (queryAt (refStatus e) 0 66 0).st = .query ∧ (queryAt (refStatus e) 0 66 0).cfg ≠ none ∧
        e.q.length ≤ 64 ∧ (queryAt (refStatus e) 0 66 0).bus = [.answers (refStatus e) []] ∧
        (nextOr base (step (queryAt (refStatus e) 0 66 0))).st = .read)
      ⟨List.replicate 64 0xAA, false, [0xBB]⟩ ∧
    step (queryAt 0x40 0 66 0) = .next (nextOr base (step (queryAt 0x40 0 66 0))) := by
  exact ⟨by decide, rfl⟩

/-- One result for each clause, one configuration for each strategy, and a caller that finds no configuration. -/
theorem witness_CallerFollowsTheLoop :
    base.cfg = some cfgT ∧ base.res = .ok (.bytes []) ∧ cfgT.strategy = .addressed ∧
      ({ cfgT with strategy := .raw } : Cfg).strategy = .raw ∧
      ({ cfgT with strategy := .encodedLine } : Cfg).strategy = .encodedLine ∧
      ({ base with res := .ok (.outcome .dataReady) } : State).res = .ok (.outcome .dataReady) ∧
      ({ base with res := .err .overflow } : State).res = .err .overflow ∧ Cause.overflow ≠ .busFault ∧
      ({ base with res := .err .busFault } : State).res = .err .busFault ∧ decoded.res = .ok (.frame ⟨[], 0, 0, 0, 0, true⟩) ∧
      (fun l : Loop => l.stopped = false ∧ receiving l.block.st = false ∧ l.block.requests = [] ∧ l.pos = .received ∧
          l.block.res = .ok (.bytes []) ∧ l.block.cfg = none)
        ⟨.received, 1000, [], false, State.reset⟩ := by decide

/-- A frame in the result register, about to be handed over. -/
theorem witness_OnlyCheckedFramesAreDelivered :
    (fun l : Loop => FrameChecked l.block ∧ (∀ f ∈ l.delivered, f.crcOk = true) ∧
        loopStep l = .next { l with pos := .start, delivered := [⟨[], 0, 0, 0, 0, true⟩] })
      ⟨.decoded, 1000, [], false, { decoded with requests := [] }⟩ :=
  ⟨decoded_checked, by decide, rfl⟩

end Sys2Proof.Tests
end

section
/-! The drain unit in QUERY and in FLUSH when the radio answers (40_fifo_drain.md R107, R108, R120): the state after each of
the two steps, and the statement about the overflow bit that chains them. -/

namespace Sys2Proof.Machine

/-! ## The step of a RECEIVE in QUERY and in FLUSH -/

theorem step_query {s : State} {c : Cfg} (hst : s.st = .query) (hc : s.cfg = some c) :
    step s = .next (drainQuery c s) := by
  rw [step_receiving (by rw [hst]; rfl)]
  simp [drainStep, hst, hc]

theorem step_flush {s : State} {c : Cfg} (hst : s.st = .flush) (hc : s.cfg = some c) :
    step s = .next (flushEntry c s) := by
  rw [step_receiving (by rw [hst]; rfl)]
  simp [drainStep, hst, hc]

/-! ## The two transitions when the primitive is answered -/

theorem drainQuery_of_answers {c : Cfg} {s : State} {b : Byte} {data : List Byte}
    (h : nextAnswer s = .answers b data) :
    drainQuery c s = afterStatus c b (record (.status c.regRxbytes b) (answerTaken s)) := by
  rcases drainQuery_cases c s with ⟨hf, -⟩ | ⟨b', data', ha, e⟩
  · cases h.symm.trans hf
  · cases h.symm.trans ha
    exact e

theorem flushEntry_of_answers {c : Cfg} {s : State} {b : Byte} {data : List Byte}
    (h : nextAnswer s = .answers b data) :
    flushEntry c s =
      { record (.strobe c.cmdFlush b) (answerTaken s) with st := .idle, buf := [], res := .err s.pending } := by
  rcases flushEntry_cases c s with ⟨hf, -⟩ | ⟨b', data', ha, e⟩
  · cases h.symm.trans hf
  · cases h.symm.trans ha
    exact e

/-- Overflow is judged before the count: no bit but bit 7 and no register matters (R108). -/
theorem afterStatus_of_overflow {c : Cfg} {b : Byte} {s : State} (h : b.getLsbD 7 = true) :
    afterStatus c b s = raisePending .overflow s :=
  if_pos h

/-- The step at QUERY whose status byte has the overflow bit (R108). -/
theorem step_query_of_overflow {s : State} {c : Cfg} {b : Byte} {data : List Byte} (hst : s.st = .query)
    (hc : s.cfg = some c) (ha : nextAnswer s = .answers b data) (hb : b.getLsbD 7 = true) :
    step s = .next (raisePending .overflow (record (.status c.regRxbytes b) (answerTaken s))) := by
  rw [step_query hst hc, drainQuery_of_answers ha, afterStatus_of_overflow hb]

/-- The step at FLUSH whose strobe is answered (R120). -/
theorem step_flush_of_answers {s : State} {c : Cfg} {b : Byte} {data : List Byte} (hst : s.st = .flush)
    (hc : s.cfg = some c) (ha : nextAnswer s = .answers b data) :
    step s = .next
      { record (.strobe c.cmdFlush b) (answerTaken s) with st := .idle, buf := [], res := .err s.pending } := by
  rw [step_flush hst hc, flushEntry_of_answers ha]

/-- Settles O35: the status read takes the first answer and leaves the second for the strobe of the FLUSH step. -/
theorem overflowBitEndsInOneFlush : Obligations.OverflowBitEndsInOneFlush := by
  intro s c b f d e rest hst hc hbus hb
  have hquery := step_query_of_overflow hst hc (nextAnswer_cons hbus) hb
  refine ⟨_, _, hquery, rfl, rfl,
    step_flush_of_answers rfl hc (nextAnswer_cons (a := .answers f e) (rest := rest) ?_), rfl, rfl, ?_⟩
  · simp [hbus]
  · simp

end Sys2Proof.Machine
end

section
/-! The line codec (42_line_codec.md R171, R175): the state after LINE_ENC and LINE_DEC from IDLE, the symbols of an encoding
by position, and the failure of a decoding that meets a byte with no value. -/

namespace Sys2Proof.Machine

/-! ## The two operations from IDLE -/

theorem exec_lineEnc_idle {s : State} (h : s.st = .idle) :
    exec .lineEnc s = .next { s with trace := [], res := .ok (.bytes (lineEncode s.lineTable s.operand)) } :=
  operate_idle h

theorem exec_lineDec_idle {s : State} (h : s.st = .idle) :
    exec .lineDec s = .next { s with trace := [], res := bytesResult (lineDecode s.lineTable s.operand) } :=
  operate_idle h

/-! ## The symbols of an encoding -/

@[simp] theorem lineEncode_nil (t : Vector Byte 16) : lineEncode t [] = [] := rfl

@[simp] theorem lineEncode_cons (t : Vector Byte 16) (b : Byte) (x : List Byte) :
    lineEncode t (b :: x) = symbolOf t (hiNibble b) :: symbolOf t (loNibble b) :: lineEncode t x := rfl

@[simp] theorem length_lineEncode (t : Vector Byte 16) (x : List Byte) : (lineEncode t x).length = 2 * x.length := by
  induction x with
  | nil => rfl
  | cons b x ih => simp only [lineEncode_cons, List.length_cons, ih, Nat.mul_add_one]

theorem getElem?_lineEncode_even (t : Vector Byte 16) (x : List Byte) (i : Nat) :
    (lineEncode t x)[2 * i]? = x[i]?.map fun b => symbolOf t (hiNibble b) := by
  induction x generalizing i with
  | nil => rfl
  | cons b x ih =>
    cases i with
    | zero => rfl
    | succ i => simpa only [lineEncode_cons, Nat.mul_add_one, List.getElem?_cons_succ] using ih i

theorem getElem?_lineEncode_odd (t : Vector Byte 16) (x : List Byte) (i : Nat) :
    (lineEncode t x)[2 * i + 1]? = x[i]?.map fun b => symbolOf t (loNibble b) := by
  induction x generalizing i with
  | nil => rfl
  | cons b x ih =>
    cases i with
    | zero => rfl
    | succ i => simpa only [lineEncode_cons, Nat.mul_add_one, List.getElem?_cons_succ] using ih i

/-- Settles O12: each operand byte puts two symbols in front of the encoding of the rest. -/
theorem lineEncodeGivesTwoSymbolsPerByte : Obligations.LineEncodeGivesTwoSymbolsPerByte := by
  refine ⟨by decide, fun s hs => ⟨_, exec_lineEnc_idle hs, length_lineEncode _ _, fun i b hb => ⟨?_, ?_⟩⟩⟩
  · rw [getElem?_lineEncode_even, hb]
    rfl
  · rw [getElem?_lineEncode_odd, hb]
    rfl

/-! ## The failure of a decoding -/

/-- A successful decoding has a value for both bytes of its first pair and decodes the rest (R174). -/
theorem decodePairs_cons_cons_eq_some {t : Vector Byte 16} {h l : Byte} {rest x : List Byte}
    (hx : decodePairs t (h :: l :: rest) = some x) :
    ∃ hv lv xs, symbolValue t h = some hv ∧ symbolValue t l = some lv ∧ decodePairs t rest = some xs ∧
      x = joinNibbles hv lv :: xs := by
  unfold decodePairs at hx
  split at hx
  next hv lv xs hh hl hrest => exact ⟨hv, lv, xs, hh, hl, hrest, (Option.some.inj hx).symm⟩
  next => cases hx

/-- Every byte of a list that decodes has a value. -/
theorem symbolValue_ne_none_of_decodePairs {t : Vector Byte 16} : ∀ {y x : List Byte}, decodePairs t y = some x →
    ∀ b ∈ y, symbolValue t b ≠ none
  | [], _, _, _, hb => nomatch hb
  | [_], _, hx, _, _ => nomatch hx
  | h :: l :: rest, _, hx, b, hb => by
    obtain ⟨hv, lv, xs, hh, hl, hrest, -⟩ := decodePairs_cons_cons_eq_some hx
    rcases List.mem_cons.1 hb with rfl | hb
    · simp [hh]
    rcases List.mem_cons.1 hb with rfl | hb
    · simp [hl]
    · exact symbolValue_ne_none_of_decodePairs hrest b hb

/-- One byte that is no symbol makes the whole decoding fail, whatever the length (R175, R176). -/
theorem lineDecode_of_not_symbol {t : Vector Byte 16} {y : List Byte} {b : Byte} (hb : b ∈ y)
    (hno : ∀ v, symbolOf t v ≠ b) : lineDecode t y = .error .codecError := by
  have hnone : decodePairs t y = none :=
    Option.eq_none_iff_forall_ne_some.2 fun _ hx =>
      symbolValue_ne_none_of_decodePairs hx b hb (symbolValue_eq_none.2 hno)
  simp [lineDecode, hnone]

/-- Settles O14: a byte that is no symbol has no value, and a list that decodes has a value for each of its bytes. -/
theorem lineDecodeFailsAtomically : Obligations.LineDecodeFailsAtomically := by
  rintro s hs ⟨b, hb, hno⟩
  rw [exec_lineDec_idle hs, lineDecode_of_not_symbol hb hno]
  rfl

end Sys2Proof.Machine
end

section
/-! The serial codec (43_serial_codec.md): the two operations from IDLE, and the round trip of R197, which reads one
character after the other off the encoded bits and drops the fill. -/

namespace Sys2Proof.Machine

/-! ## The two operations from IDLE -/

theorem exec_serEnc_idle {s : State} (h : s.st = .idle) :
    exec .serEnc s = .next { s with trace := [], res := .ok (.bytes (serEncode Config.serPadBit s.operand)) } :=
  operate_idle h

theorem exec_serDec_idle {s : State} (h : s.st = .idle) :
    exec .serDec s = .next { s with trace := [], res := .ok (.bytes (serDecode s.operand)) } :=
  operate_idle h

/-! ## The round trip -/

/-- The bits of an encoding are those of its characters, then the fill (R191, R192). -/
theorem flatten_serEncode (pad : Bool) (x : List Byte) :
    flatten (serEncode pad x) = fillToByte pad (x.flatMap serialChar) :=
  flatten_pack (length_fillToByte pad _)

/-- Characters followed by fewer bits than one more decode to their bytes (R194, R195). -/
theorem deframe_flatMap_serialChar_append (x : List Byte) {rest : List Bool} (h : rest.length < 10) :
    deframe (x.flatMap serialChar ++ rest) = x := by
  induction x with
  | nil => exact deframe_short h
  | cons b x ih => rw [List.flatMap_cons, List.append_assoc, deframe_serialChar, ih]

/-- The fill is shorter than a character, whatever its bits hold (R192). -/
theorem serDecode_serEncode (pad : Bool) (x : List Byte) : serDecode (serEncode pad x) = x := by
  rw [serDecode, flatten_serEncode, fillToByte]
  refine deframe_flatMap_serialChar_append x ?_
  rw [List.length_replicate]
  omega

/-- Settles O23: SER_ENC leaves the unit in IDLE, so SER_DEC runs on its result, and there the round trip is that of the
two functions. -/
theorem serialDecodeOfSerialEncodeIsIdentity : Obligations.SerialDecodeOfSerialEncodeIsIdentity := by
  refine ⟨fun s t hs ht => ⟨serEncode Config.serPadBit s.operand, ?_⟩, serDecode_serEncode⟩
  cases (exec_serEnc_idle hs).symm.trans ht
  refine ⟨rfl, ?_⟩
  rw [exec_serDec_idle, serDecode_serEncode]
  exact hs

end Sys2Proof.Machine
end

section
/-! The end of a RECEIVE that sees only empty observations (40_fifo_drain.md R110): each outcome of an empty observation, the
step of a pause, and the run that spends the budget. -/

namespace Sys2Proof.Machine

/-! ## Runs of several steps -/

theorem runSteps_succ {s u : State} (h : step s = .next u) (k : Nat) : runSteps (k + 1) s = runSteps k u := by
  simp only [runSteps, h]

/-! ## Empty observations -/

theorem step_query_of_answers {s : State} {c : Cfg} {b : Byte} {data : List Byte} (hst : s.st = .query)
    (hc : s.cfg = some c) (ha : nextAnswer s = .answers b data) :
    step s = .next (afterStatus c b (record (.status c.regRxbytes b) (answerTaken s))) := by
  rw [step_query hst hc, drainQuery_of_answers ha]

theorem afterStatus_zero_of_spent {c : Cfg} {s : State} (h : c.emptyBudget.toNat ≤ s.empty + 1) :
    afterStatus c 0 s = raisePending .receiveTimeout { s with avail := 0, empty := s.empty + 1 } :=
  if_pos h

theorem afterStatus_zero_of_left {c : Cfg} {s : State} (h : s.empty + 1 < c.emptyBudget.toNat) :
    afterStatus c 0 s = { s with avail := 0, empty := s.empty + 1, st := .pauseE } :=
  if_neg (Nat.not_le.2 h)

/-- The step of either pause (R110, R116). -/
theorem step_pause {s : State} {c : Cfg} (hst : s.st = .pauseP ∨ s.st = .pauseE) (hc : s.cfg = some c) :
    step s = .next { record (.pause c.pauseUs) s with st := .query } := by
  rcases hst with hst | hst <;>
  · rw [step_receiving (by rw [hst]; rfl)]
    simp only [drainStep, hst, hc]
    rfl

/-- The empty observation that spends the budget, and the flush that follows (R110, R120). -/
theorem exists_two_steps_of_spent {s : State} {c : Cfg} {f : Byte} {data e : List Byte} {rest : List BusAnswer}
    (hst : s.st = .query) (hc : s.cfg = some c) (hbus : s.bus = .answers 0 data :: .answers f e :: rest)
    (hspent : c.emptyBudget.toNat ≤ s.empty + 1) :
    ∃ t, runSteps 2 s = .next t ∧ t.st = .idle ∧ t.res = .err .receiveTimeout ∧ t.bus = rest ∧
      t.trace = s.trace ++ [.status c.regRxbytes 0, .strobe c.cmdFlush f] := by
  have hquery := step_query_of_answers hst hc (nextAnswer_cons hbus)
  rw [afterStatus_zero_of_spent (s := record _ (answerTaken s)) hspent] at hquery
  refine ⟨_, (runSteps_succ hquery 1).trans (runSteps_succ (step_flush_of_answers rfl (by exact hc)
    (nextAnswer_cons (a := .answers f e) (rest := rest) ?_)) 0), rfl, rfl, ?_, ?_⟩ <;> simp [hbus]

/-- An empty observation within the budget, and the pause that follows (R110). -/
theorem exists_two_steps_of_left {s : State} {c : Cfg} {data : List Byte} {rest : List BusAnswer} (hst : s.st = .query)
    (hc : s.cfg = some c) (hbus : s.bus = .answers 0 data :: rest) (hleft : s.empty + 1 < c.emptyBudget.toNat) :
    ∃ u, (∀ k, runSteps (k + 2) s = runSteps k u) ∧ u.st = .query ∧ u.cfg = some c ∧ u.empty = s.empty + 1 ∧
      u.bus = rest ∧ u.trace = s.trace ++ [.status c.regRxbytes 0, .pause c.pauseUs] := by
  have hquery := step_query_of_answers hst hc (nextAnswer_cons hbus)
  rw [afterStatus_zero_of_left (s := record _ (answerTaken s)) hleft] at hquery
  refine ⟨_, fun k => (runSteps_succ hquery (k + 1)).trans (runSteps_succ (step_pause (.inr rfl) (by exact hc)) k),
    rfl, hc, rfl, ?_, ?_⟩ <;> simp [hbus]

/-- With `k + 1` empty observations left in the budget, the next `k + 1` zero status bytes end the operation: each of
the first `k` is followed by a pause, the last by the flush. -/
theorem runSteps_of_zero_status_bytes {c : Cfg} {f : Byte} {rest : List BusAnswer} (k : Nat) :
    ∀ {s : State}, s.st = .query → s.cfg = some c → s.empty + (k + 1) = c.emptyBudget.toNat →
    s.bus = List.replicate (k + 1) (.answers 0 []) ++ .answers f [] :: rest →
      ∃ t, runSteps (2 * (k + 1)) s = .next t ∧ t.st = .idle ∧ t.res = .err .receiveTimeout ∧ t.bus = rest ∧
        t.trace = s.trace ++ (List.replicate k [.status c.regRxbytes 0, .pause c.pauseUs]).flatten ++
          [.status c.regRxbytes 0, .strobe c.cmdFlush f] := by
  induction k with
  | zero =>
    intro s hst hc he hbus
    simpa using exists_two_steps_of_spent hst hc hbus (by omega)
  | succ k ih =>
    intro s hst hc he hbus
    obtain ⟨u, hround, hu, hcu, heu, hbu, htu⟩ := exists_two_steps_of_left hst hc hbus (by omega)
    obtain ⟨t, hrun, hidle, hres, hrest, htrace⟩ := ih hu hcu (by omega) hbu
    refine ⟨t, (hround _).trans hrun, hidle, hres, hrest, ?_⟩
    simp [htrace, htu, List.replicate_succ]

/-- Settles O45, by induction on the empty observations that the budget still has. -/
theorem emptyBudgetEndsInReceiveTimeout : Obligations.EmptyBudgetEndsInReceiveTimeout := by
  intro s c f rest hst hc hb he hbus
  obtain ⟨k, hk⟩ : ∃ k, c.emptyBudget.toNat = k + 1 :=
    Nat.exists_eq_succ_of_ne_zero fun h => hb (BitVec.eq_of_toNat_eq h)
  rw [hk] at hbus ⊢
  exact runSteps_of_zero_status_bytes k hst hc (by omega) hbus

end Sys2Proof.Machine
end

section
/-! The end of a RECEIVE that never waits for data (70_reset_and_hazards.md R273): when every answer shows 2 to 64 bytes,
each round of QUERY, READ and pause brings the frame at least one byte closer to its end. -/

namespace Sys2Proof.Machine

/-! ## Ending within a number of steps -/

/-- The RECEIVE in progress is back at IDLE after at most so many steps, and in progress before each of them. -/
inductive EndsWithin : Nat → State → Prop
  | idle {k : Nat} {s : State} : s.st = .idle → EndsWithin k s
  | step {k : Nat} {s u : State} : receiving s.st = true → step s = .next u → EndsWithin k u → EndsWithin (k + 1) s

theorem EndsWithin.mono {k m : Nat} {s : State} (h : EndsWithin k s) (hkm : k ≤ m) : EndsWithin m s := by
  induction h generalizing m with
  | idle hst => exact .idle hst
  | step hr hs _ ih =>
    obtain ⟨m, rfl⟩ := Nat.exists_eq_succ_of_ne_zero (n := m) (by omega)
    exact .step hr hs (ih (by omega))

/-- The run that `EndsWithin` stands for. -/
theorem EndsWithin.exists_runSteps {k : Nat} {s : State} (h : EndsWithin k s) :
    ∃ j t, j ≤ k ∧ (∀ i, i < j → ∃ u, runSteps i s = .next u ∧ receiving u.st = true) ∧
      runSteps j s = .next t ∧ t.st = .idle := by
  induction h with
  | @idle k s hst => exact ⟨0, s, Nat.zero_le k, fun _ hi => absurd hi (Nat.not_lt_zero _), rfl, hst⟩
  | @step k s u hr hs _ ih =>
    obtain ⟨j, t, hj, hrec, hrun, hidle⟩ := ih
    refine ⟨j + 1, t, by omega, ?_, (runSteps_succ hs j).trans hrun, hidle⟩
    intro i hi
    cases i with
    | zero => exact ⟨s, rfl, hr⟩
    | succ i =>
      obtain ⟨v, hv, hrv⟩ := hrec i (by omega)
      exact ⟨v, (runSteps_succ hs i).trans hv, hrv⟩

/-! ## The assumption on the radio -/

/-- The script holds at least `m` answers, none fails, and each status byte shows 2 to 64 bytes and no overflow. -/
def ShowsData (m : Nat) (bus : List BusAnswer) : Prop :=
  m ≤ bus.length ∧ ∀ a ∈ bus, ∃ b data, a = .answers b data ∧ b.getLsbD 7 = false ∧ 2 ≤ b.toNat ∧ b.toNat ≤ 64

/-- Below 128 the count of a status byte is the byte (30_encoding.md R72). -/
theorem statusCount_of_lt {b : Byte} (h : b.toNat < 128) : statusCount b = b.toNat :=
  (BitVec.toNat_and b 0x7F).trans (Nat.and_two_pow_sub_one_of_lt_two_pow (n := 7) h)

theorem ShowsData.exists_answer {m : Nat} {s : State} (h : ShowsData (m + 1) s.bus) :
    ∃ b data, nextAnswer s = .answers b data ∧ ovfFlag b = false ∧ 2 ≤ statusCount b ∧ statusCount b ≤ 64 := by
  obtain ⟨hlen, hall⟩ := h
  obtain ⟨a, rest, hbus⟩ := List.exists_cons_of_length_pos (l := s.bus) (by omega)
  obtain ⟨b, data, rfl, hovf, hge, hle⟩ := hall a (by simp [hbus])
  have hcount := statusCount_of_lt (b := b) (by omega)
  exact ⟨b, data, nextAnswer_cons hbus, hovf, by omega, by omega⟩

theorem ShowsData.tail {m : Nat} {bus : List BusAnswer} (h : ShowsData (m + 1) bus) : ShowsData m bus.tail :=
  ⟨by have := h.1; rw [List.length_tail]; omega, fun a ha => h.2 a (List.mem_of_mem_tail ha)⟩

/-! ## Valid observations -/

/-- A count of 1 to 64 without overflow is left to the tie-break rule (40_fifo_drain.md R108 to R112). -/
theorem afterStatus_of_count {c : Cfg} {b : Byte} {s : State} (ho : ovfFlag b = false) (h1 : 1 ≤ statusCount b)
    (h64 : statusCount b ≤ 64) : afterStatus c b s = tieBreak { s with avail := statusCount b } := by
  have h0 : statusCount b ≠ 0 := by omega
  simp [afterStatus, ho, h0, Config.fifoCapacity, Nat.not_lt.2 h64]

/-- The chunk that completes the frame is read whole (R112). -/
theorem afterStatus_of_complete {c : Cfg} {b : Byte} {s : State} (ho : ovfFlag b = false) (h1 : 1 ≤ statusCount b)
    (h64 : statusCount b ≤ 64) (h : s.tgt ≤ s.cur + statusCount b) :
    afterStatus c b s =
      { s with avail := statusCount b, empty := 0, n := statusCount b, last := true, st := .read } :=
  (afterStatus_of_count ho h1 h64).trans (if_pos (decide_eq_true h))

/-- Of a chunk that does not complete the frame one byte is left in the FIFO (R112). -/
theorem afterStatus_of_partial {c : Cfg} {b : Byte} {s : State} (ho : ovfFlag b = false) (h1 : 1 ≤ statusCount b)
    (h64 : statusCount b ≤ 64) (h : s.cur + statusCount b < s.tgt) :
    afterStatus c b s =
      { s with avail := statusCount b, empty := 0, n := statusCount b - 1, last := false, st := .read } :=
  (afterStatus_of_count ho h1 h64).trans (if_neg fun hl => Nat.not_le.2 h (of_decide_eq_true hl))

/-! ## The steps at HDR, READ and DONE -/

theorem step_hdr {s : State} {c : Cfg} (hst : s.st = .hdr) (hc : s.cfg = some c) : step s = .next (drainHdr c s) := by
  rw [step_receiving (by rw [hst]; rfl)]
  simp [drainStep, hst, hc]

theorem step_read {s : State} {c : Cfg} (hst : s.st = .read) (hc : s.cfg = some c) : step s = drainRead c s := by
  rw [step_receiving (by rw [hst]; rfl)]
  simp [drainStep, hst, hc]

theorem step_done {s : State} {c : Cfg} (hst : s.st = .done) (hc : s.cfg = some c) : step s = drainDone s := by
  rw [step_receiving (by rw [hst]; rfl)]
  simp [drainStep, hst, hc]

/-- The step at READ whose burst read is answered and fits the buffer (R115, R116). -/
theorem step_read_of_answers {s : State} {c : Cfg} {b : Byte} {data : List Byte} (hst : s.st = .read)
    (hc : s.cfg = some c) (hn : s.n ≠ 0) (ha : nextAnswer s = .answers b data) (hfit : s.cur + s.n ≤ Config.bufCap) :
    step s = .next (afterChunk
      { record (.burstRead c.regRxfifo s.n b (burstData s.n s.draws data)) (answerTaken s) with
        buf := s.buf.writeBytes s.cur (burstData s.n s.draws data), cur := s.cur + s.n }) := by
  rw [step_read hst hc]
  rcases drainRead_cases c s with ⟨h0, -⟩ | ⟨-, hf, -⟩ | ⟨b', data', -, ha', -, rfl, ⟨-, e⟩ | ⟨hover, -⟩⟩
  · exact absurd h0 hn
  · cases ha.symm.trans hf
  · cases ha.symm.trans ha'
    exact e
  · omega

/-- The step at READ of a chunk that fits the buffer appends it and keeps the buffer exact (R15, R115, R116). -/
theorem exists_step_of_read {s : State} {c : Cfg} {m : Nat} (hst : s.st = .read) (hc : s.cfg = some c) (hn : s.n ≠ 0)
    (hfit : s.cur + s.n ≤ Config.bufCap) (hbuf : BufExact s) (hbus : ShowsData (m + 1) s.bus) :
    ∃ u, step s = .next u ∧ u.st = (if s.last then .done else .pauseP) ∧ u.cfg = some c ∧ u.tgt = s.tgt ∧
      u.cur = s.cur + s.n ∧ BufExact u ∧ ShowsData m u.bus := by
  obtain ⟨b, data, ha, -⟩ := hbus.exists_answer
  refine ⟨_, step_read_of_answers hst hc hn ha hfit, rfl, hc, rfl, rfl, ?_, hbus.tail⟩
  simpa [BufExact] using writeBytes_range (d := burstData s.n s.draws data) hbuf

/-- The step at DONE with every byte below `cur` in the buffer goes to IDLE (R119). -/
theorem endsWithin_one_of_done {s : State} {c : Cfg} (hst : s.st = .done) (hc : s.cfg = some c) (hbuf : BufExact s) :
    EndsWithin 1 s :=
  .step (by rw [hst]; rfl) ((step_done hst hc).trans (drainDone_ok (readBytes_all hbuf))) (.idle rfl)

/-- The step at FLUSH goes to IDLE when the strobe is answered (R120). -/
theorem endsWithin_one_of_flush {s : State} {c : Cfg} (hst : s.st = .flush) (hc : s.cfg = some c)
    (hbus : ShowsData 1 s.bus) : EndsWithin 1 s := by
  obtain ⟨b, data, ha, -⟩ := hbus.exists_answer
  exact .step (by rw [hst]; rfl) (step_flush_of_answers hst hc ha) (.idle rfl)

/-! ## Rounds of QUERY, READ and pause -/

/-- At QUERY of a frame of at most 257 bytes that lacks two bytes or more, with the bytes so far in the buffer. -/
structure Collecting (c : Cfg) (s : State) : Prop where
  st : s.st = .query
  cfg : s.cfg = some c
  lacks_two : s.cur + 2 ≤ s.tgt
  tgt_le : s.tgt ≤ 257
  buf : BufExact s

/-- The status byte leads to READ of at least one byte, and a chunk that does not complete the frame leaves two bytes or
more to come: the one in the FIFO and at least one that has not arrived (R112, R117). -/
theorem Collecting.exists_step {c : Cfg} {m : Nat} {s : State} (h : Collecting c s) (hbus : ShowsData (m + 1) s.bus) :
    ∃ v, step s = .next v ∧ v.st = .read ∧ v.cfg = some c ∧ v.tgt = s.tgt ∧ v.cur = s.cur ∧ BufExact v ∧
      ShowsData m v.bus ∧ 1 ≤ v.n ∧ v.n ≤ 64 ∧ (v.last = true ∨ v.last = false ∧ s.cur + v.n + 2 ≤ s.tgt) := by
  obtain ⟨b, data, ha, ho, hge, hle⟩ := hbus.exists_answer
  have hquery := step_query_of_answers h.st h.cfg ha
  by_cases hcomplete : s.tgt ≤ s.cur + statusCount b
  · rw [afterStatus_of_complete (s := record _ (answerTaken s)) ho (by omega) hle hcomplete] at hquery
    exact ⟨_, hquery, rfl, h.cfg, rfl, rfl, h.buf, hbus.tail, Nat.le_of_succ_le hge, hle, .inl rfl⟩
  · rw [afterStatus_of_partial (s := record _ (answerTaken s)) ho (by omega) hle (Nat.not_le.1 hcomplete)] at hquery
    refine ⟨_, hquery, rfl, h.cfg, rfl, rfl, h.buf, hbus.tail, ?_, ?_, .inr ⟨rfl, ?_⟩⟩ <;>
    · simp only
      omega

/-- A round of QUERY, READ and either DONE, which ends the operation, or a pause, with the frame closer to its end. -/
theorem Collecting.endsWithin_or_exists_round {c : Cfg} {m : Nat} {s : State} (h : Collecting c s)
    (hbus : ShowsData (m + 2) s.bus) :
    EndsWithin 3 s ∨ ∃ u, Collecting c u ∧ u.tgt = s.tgt ∧ s.cur < u.cur ∧ ShowsData m u.bus ∧
      ∀ k, EndsWithin k u → EndsWithin (k + 3) s := by
  have hs : receiving s.st = true := by rw [h.st]; rfl
  obtain ⟨hlacks, htgt⟩ := And.intro h.lacks_two h.tgt_le
  obtain ⟨v, hquery, hv, hcv, htv, hcurv, hbufv, hbusv, hge, hle, hlast⟩ := h.exists_step hbus
  have hfit : v.cur + v.n ≤ Config.bufCap := by simp only [Config.bufCap]; omega
  obtain ⟨u, hread, hu, hcu, htu, hcuru, hbufu, hbusu⟩ := exists_step_of_read hv hcv (by omega) hfit hbufv hbusv
  have hvr : receiving v.st = true := by rw [hv]; rfl
  rcases hlast with hlast | ⟨hlast, hleft⟩
  · rw [hlast] at hu
    exact .inl (.step hs hquery (.step hvr hread (endsWithin_one_of_done hu hcu hbufu)))
  · rw [hlast] at hu
    have hur : receiving u.st = true := by rw [hu]; rfl
    refine .inr ⟨{ record (.pause c.pauseUs) u with st := .query }, ⟨rfl, hcu, ?_, ?_, hbufu⟩, htu.trans htv, ?_, hbusu,
      fun k hk => .step hs hquery (.step hvr hread (.step hur (step_pause (.inl hu) hcu) hk))⟩ <;>
    · simp only [record_tgt, record_cur]
      omega

/-- At most `k` rounds gain a byte each, and one more completes the frame. -/
theorem Collecting.endsWithin {c : Cfg} (k : Nat) : ∀ {s : State}, Collecting c s → s.tgt ≤ s.cur + k + 2 →
    ShowsData (2 * k + 2) s.bus → EndsWithin (3 * k + 3) s := by
  induction k with
  | zero =>
    intro s h hgap hbus
    rcases h.endsWithin_or_exists_round hbus with hend | ⟨u, hu, htu, hcu, -⟩
    · exact hend
    · have := hu.lacks_two
      omega
  | succ k ih =>
    intro s h hgap hbus
    rcases h.endsWithin_or_exists_round hbus with hend | ⟨u, hu, htu, hcu, hbu, hround⟩
    · exact hend.mono (by omega)
    · exact hround _ (ih hu (by omega) hbu)

/-! ## The whole operation -/

/-- From HDR the length byte leads to FLUSH or to QUERY with nothing read of at most 257 bytes (R102 to R106). -/
theorem exists_step_of_hdr {s : State} {c : Cfg} {m : Nat} (hst : s.st = .hdr) (hc : s.cfg = some c) (hcur : s.cur = 0)
    (hbuf : s.buf = []) (hbus : ShowsData (m + 1) s.bus) :
    ∃ u, step s = .next u ∧ ShowsData m u.bus ∧
      (u.st = .flush ∧ u.cfg = some c ∨ Collecting c u ∧ u.cur = 0) := by
  obtain ⟨b, data, ha, -⟩ := hbus.exists_answer
  rcases drainHdr_cases c s with ⟨hf, -⟩ | ⟨s0, data', -, chunk, -, u, rfl, ⟨-, e⟩ | ⟨-, -, e⟩ | ⟨hne, -, e⟩⟩
  · cases ha.symm.trans hf
  · exact ⟨_, (step_hdr hst hc).trans (congrArg _ e), hbus.tail, .inl ⟨rfl, hc⟩⟩
  · exact ⟨_, (step_hdr hst hc).trans (congrArg _ e), hbus.tail, .inl ⟨rfl, hc⟩⟩
  · refine ⟨_, (step_hdr hst hc).trans (congrArg _ e), hbus.tail, .inr ⟨⟨rfl, hc, ?_, ?_, ?_⟩, hcur⟩⟩
    · have : (byteAt chunk 0).toNat ≠ 0 := fun h0 => hne (BitVec.eq_of_toNat_eq h0)
      simp only [record_cur, answerTaken_cur, hcur]
      omega
    · have := (byteAt chunk 0).isLt
      simp only
      omega
    · simp [BufExact, hcur, hbuf]

/-- A RECEIVE that has just started ends within 769 steps when 513 answers show data: one answer and step for the
header, then 255 rounds that gain a byte and the one that completes the frame. -/
theorem endsWithin_of_hdr {s : State} {c : Cfg} (hst : s.st = .hdr) (hc : s.cfg = some c) (hcur : s.cur = 0)
    (hbuf : s.buf = []) (hbus : ShowsData 513 s.bus) : EndsWithin 769 s := by
  obtain ⟨u, hstep, hbu, ⟨hu, hcu⟩ | ⟨hu, hcuru⟩⟩ := exists_step_of_hdr hst hc hcur hbuf hbus
  · have hflush := endsWithin_one_of_flush hu hcu ⟨Nat.le_trans (by decide) hbu.1, hbu.2⟩
    exact .step (by rw [hst]; rfl) hstep (hflush.mono (by omega))
  · have htgt := hu.tgt_le
    exact .step (by rw [hst]; rfl) hstep (hu.endsWithin 255 (by omega) hbu)

theorem exec_receive_idle {s : State} {c : Cfg} (hst : s.st = .idle) (hc : s.cfg = some c) :
    exec .receive s = .next (startReceive s) := by
  simp only [exec, execReceive, hc, operate_idle hst]
  rfl

theorem execThenSteps_of_next {i : Instr} {s u : State} (h : exec i s = .next u) (k : Nat) :
    execThenSteps i k s = runSteps k u := by
  simp only [execThenSteps, h]

/-- Settles O50: the run from HDR that `endsWithin_of_hdr` bounds is the one that RECEIVE starts. -/
theorem receiveEndsWhenEveryAnswerShowsData : Obligations.ReceiveEndsWhenEveryAnswerShowsData := by
  intro s c hst hc hlen hall
  have hexec := execThenSteps_of_next (exec_receive_idle hst hc)
  have hbus : ShowsData 513 (startReceive s).bus := ⟨Nat.le_trans (by decide) hlen, hall⟩
  have hends : EndsWithin 769 (startReceive s) := endsWithin_of_hdr rfl hc rfl rfl hbus
  obtain ⟨k, t, hk, hrec, hrun, hidle⟩ := hends.exists_runSteps
  refine ⟨k, t, by omega, fun j hj => ?_, (hexec k).trans hrun, hidle⟩
  obtain ⟨u, hu, hru⟩ := hrec j hj
  exact ⟨u, (hexec j).trans hu, hru⟩

end Sys2Proof.Machine
end

section
/-! What a step can do, as one list of cases for each kind of step: the transitions of the drain unit with the
condition of each (40_fifo_drain.md R123), and the operations that end at once. The invariants below are proved over
these lists. -/

namespace Sys2Proof.Machine

/-! ## The transitions of the drain unit -/

/-- The state in which the status read of QUERY has been answered with `b` (R107). -/
abbrev observed (c : Cfg) (b : Byte) (s : State) : State := record (.status c.regRxbytes b) (answerTaken s)

/-- The state in which the burst read of HDR has been answered with `s0` and `chunk` (R102). -/
abbrev headed (c : Cfg) (s0 : Byte) (chunk : List Byte) (s : State) : State :=
  { record (.burstRead c.regRxfifo 1 s0 chunk) (answerTaken s) with len := byteAt chunk 0 }

/-- The state in which the burst read of READ has been answered with `b` and `chunk`, and the chunk appended (R115).
-/
abbrev appended (c : Cfg) (b : Byte) (chunk : List Byte) (s : State) : State :=
  { record (.burstRead c.regRxfifo s.n b chunk) (answerTaken s) with
    buf := s.buf.writeBytes s.cur chunk, cur := s.cur + s.n }

/-- The transitions of R123 from `s`, each with the condition on the registers and on the bytes of the answer under
which it is taken. -/
inductive DrainMove (c : Cfg) (s : State) : State → Prop
  | busFault (hst : s.st = .hdr ∨ s.st = .query ∨ s.st = .read ∨ s.st = .flush) (ha : nextAnswer s = .fails) :
    DrainMove c s (busFaultEntry (record .fault (answerTaken s)))
  | zeroLength {s0 : Byte} {chunk : List Byte} (hst : s.st = .hdr) (hlen : chunk.length = 1)
    (hzero : byteAt chunk 0 = 0) :
    DrainMove c s (raisePending .invalidLength (headed c s0 chunk s))
  | headerOverflow {s0 : Byte} {chunk : List Byte} (hst : s.st = .hdr) (hlen : chunk.length = 1)
    (hne : byteAt chunk 0 ≠ 0) (ho : s0 ∈ s.hdrOvfBytes) :
    DrainMove c s (raisePending .overflow (headed c s0 chunk s))
  | target {s0 : Byte} {chunk : List Byte} (hst : s.st = .hdr) (hlen : chunk.length = 1) (hne : byteAt chunk 0 ≠ 0)
    (ho : s0 ∉ s.hdrOvfBytes) :
    DrainMove c s { headed c s0 chunk s with tgt := (byteAt chunk 0).toNat + 2, st := .query }
  | overflow {b : Byte} (hst : s.st = .query) (ho : ovfFlag b = true) :
    DrainMove c s (raisePending .overflow (observed c b s))
  | budgetSpent {b : Byte} (hst : s.st = .query) (hspent : c.emptyBudget.toNat ≤ s.empty + 1) (ho : ovfFlag b = false)
    (h0 : statusCount b = 0) :
    DrainMove c s (raisePending .receiveTimeout { observed c b s with avail := 0, empty := s.empty + 1 })
  | nothingThere {b : Byte} (hst : s.st = .query) (hleft : s.empty + 1 < c.emptyBudget.toNat) (ho : ovfFlag b = false)
    (h0 : statusCount b = 0) :
    DrainMove c s { observed c b s with avail := 0, empty := s.empty + 1, st := .pauseE }
  | garbage {b : Byte} (hst : s.st = .query) (ho : ovfFlag b = false) (hg : 64 < statusCount b) :
    DrainMove c s { observed c b s with avail := statusCount b }
  | completing {b : Byte} (hst : s.st = .query) (h1 : 1 ≤ statusCount b) (h64 : statusCount b ≤ 64)
    (hge : s.tgt ≤ s.cur + statusCount b) (ho : ovfFlag b = false) :
    DrainMove c s
      { observed c b s with avail := statusCount b, empty := 0, n := statusCount b, last := true, st := .read }
  | leavingOne {b : Byte} (hst : s.st = .query) (h1 : 1 ≤ statusCount b) (h64 : statusCount b ≤ 64)
    (hlt : s.cur + statusCount b < s.tgt) (ho : ovfFlag b = false) :
    DrainMove c s
      { observed c b s with avail := statusCount b, empty := 0, n := statusCount b - 1, last := false, st := .read }
  | nothingToRead (hst : s.st = .read) (hn : s.n = 0) : DrainMove c s (afterChunk s)
  | chunkRead {b : Byte} {chunk : List Byte} (hst : s.st = .read) (hn : s.n ≠ 0) (hlen : chunk.length = s.n)
    (hfit : s.cur + s.n ≤ Config.bufCap) : DrainMove c s (afterChunk (appended c b chunk s))
  | pause (hst : s.st = .pauseP ∨ s.st = .pauseE) : DrainMove c s { record (.pause c.pauseUs) s with st := .query }
  | flushed {b : Byte} (hst : s.st = .flush) :
    DrainMove c s
      { record (.strobe c.cmdFlush b) (answerTaken s) with st := .idle, buf := [], res := .err s.pending }
  | frameDone {bs : List Byte} (hst : s.st = .done) (hbs : s.buf.readBytes 0 s.cur = .ok bs) :
    DrainMove c s { s with st := .idle, buf := [], res := .ok (.bytes bs) }

theorem drainMove_drainHdr (c : Cfg) {s : State} (hst : s.st = .hdr) : DrainMove c s (drainHdr c s) := by
  rcases drainHdr_cases c s with ⟨ha, e⟩ | ⟨s0, data, -, chunk, rfl, u, rfl, ⟨hz, e⟩ | ⟨hne, ho, e⟩ | ⟨hne, ho, e⟩⟩ <;>
    rw [e]
  · exact .busFault (.inl hst) ha
  · exact .zeroLength hst (length_burstData ..) hz
  · exact .headerOverflow hst (length_burstData ..) hne ho
  · exact .target hst (length_burstData ..) hne ho

theorem drainMove_drainQuery (c : Cfg) {s : State} (hst : s.st = .query) : DrainMove c s (drainQuery c s) := by
  rcases drainQuery_cases c s with ⟨ha, e⟩ | ⟨b, data, -, e⟩ <;> rw [e]
  · exact .busFault (.inr (.inl hst)) ha
  rcases afterStatus_cases c b (observed c b s) with ⟨ho, e⟩ | ⟨ho, h0, hspent, e⟩ | ⟨ho, h0, hleft, e⟩ | ⟨ho, hg, e⟩ |
    ⟨ho, h1, h64, hge, e⟩ | ⟨ho, h1, h64, hlt, e⟩ <;> rw [e]
  · exact .overflow hst ho
  · exact .budgetSpent hst hspent ho h0
  · exact .nothingThere hst hleft ho h0
  · exact .garbage hst ho hg
  · exact .completing hst h1 h64 hge ho
  · exact .leavingOne hst h1 h64 hlt ho

theorem drainMove_of_drainRead {c : Cfg} {s t : State} (hst : s.st = .read) (h : drainRead c s = .next t) :
    DrainMove c s t := by
  rcases drainRead_cases c s with ⟨hn, e⟩ | ⟨-, ha, e⟩ | ⟨b, data, hn, -, chunk, rfl, ⟨hfit, e⟩ | ⟨-, i, e⟩⟩ <;>
    cases e.symm.trans h
  · exact .nothingToRead hst hn
  · exact .busFault (.inr (.inr (.inl hst))) ha
  · exact .chunkRead hst hn (length_burstData ..) hfit

theorem drainMove_flushEntry (c : Cfg) {s : State} (hst : s.st = .flush) : DrainMove c s (flushEntry c s) := by
  rcases flushEntry_cases c s with ⟨ha, e⟩ | ⟨b, data, -, e⟩ <;> rw [e]
  · exact .busFault (.inr (.inr (.inr hst))) ha
  · exact .flushed hst

/-- A transition of a RECEIVE in progress that answers a next state is one of the list (R123). -/
theorem exists_drainMove {s t : State} (hr : receiving s.st = true) (h : drainStep s = .next t) :
    ∃ c, s.cfg = some c ∧ DrainMove c s t := by
  unfold drainStep at h
  split at h
  · cases h
  next c hc =>
  refine ⟨c, hc, ?_⟩
  split at h
  next hst => simp [hst, receiving] at hr
  next hst => cases h; exact drainMove_drainHdr c hst
  next hst => cases h; exact drainMove_drainQuery c hst
  next hst => exact drainMove_of_drainRead hst h
  next hst => cases h; exact .pause (.inl hst)
  next hst => cases h; exact .pause (.inr hst)
  next hst => cases h; exact drainMove_flushEntry c hst
  next hst =>
    obtain ⟨bs, hbs, rfl⟩ := drainDone_cases h
    exact .frameDone hst hbs
  next hst => simp [hst, receiving] at hr

theorem DrainMove.receiving_left {c : Cfg} {s t : State} (h : DrainMove c s t) : receiving s.st = true := by
  cases h with
  | busFault hst => rcases hst with hst | hst | hst | hst <;> rw [hst] <;> rfl
  | pause hst => rcases hst with hst | hst <;> rw [hst] <;> rfl
  | zeroLength hst | headerOverflow hst | target hst | overflow hst | budgetSpent hst | nothingThere hst | garbage hst
  | completing hst | leavingOne hst | nothingToRead hst | chunkRead hst | flushed hst | frameDone hst => rw [hst]; rfl

/-! ## The operations that end at once -/

/-- What the result of a codec or a frame decoder on `operand` can be: no error of the drain unit's but a length, and
a frame only with its CRC flag set (41_frame_decoder.md R148, R150). -/
def DecoderResult (operand : List Byte) : Result → Prop
  | .ok (.frame f) =>
    f.crcOk = true ∧ (-138 ≤ f.rssiDbm ∧ f.rssiDbm ≤ -11 ∨ f.rssiDbm = 0) ∧ LastByteFlagged operand
  | .ok _ => True
  | .err e => e ≠ .overflow ∧ e ≠ .receiveTimeout ∧ e ≠ .busFault

theorem rssiDbm_range (v : Byte) : -138 ≤ rssiDbm v ∧ rssiDbm v ≤ -11 := by
  revert v; decide

theorem decoderResult_lineDecode (x : List Byte) (t : Vector Byte 16) (y : List Byte) :
    DecoderResult x (bytesResult (lineDecode t y)) := by
  cases h : lineDecode t y with
  | ok z => trivial
  | error e => cases lineDecode_error h; exact ⟨nofun, nofun, nofun⟩

theorem decoderResult_checkCrc {raw : List Byte} {f : DecodedFrame} (hlen : 0 < raw.length) (hok : f.crcOk = true)
    (hrssi : -138 ≤ f.rssiDbm ∧ f.rssiDbm ≤ -11 ∨ f.rssiDbm = 0) :
    DecoderResult raw (frameResult (checkCrc raw f)) := by
  rcases checkCrc_cases raw f with ⟨hb, e⟩ | ⟨-, e⟩ <;> rw [e]
  · exact ⟨hok, hrssi, _, getLast?_eq_lqiByte hlen, hb⟩
  · exact ⟨nofun, nofun, nofun⟩

theorem decoderResult_decodeAddr (raw : List Byte) : DecoderResult raw (frameResult (decodeAddr raw)) := by
  unfold decodeAddr minAddr
  split
  · exact ⟨nofun, nofun, nofun⟩
  · exact decoderResult_checkCrc (by omega) rfl (.inl (rssiDbm_range _))

theorem decoderResult_decodeRaw (raw : List Byte) : DecoderResult raw (frameResult (decodeRaw raw)) := by
  unfold decodeRaw minRaw
  split
  · exact ⟨nofun, nofun, nofun⟩
  · exact decoderResult_checkCrc (by omega) rfl (.inr rfl)

theorem decoderResult_decodeLine (t : Vector Byte 16) (raw : List Byte) :
    DecoderResult raw (frameResult (decodeLine t raw)) := by
  unfold decodeLine minLine
  split
  · exact ⟨nofun, nofun, nofun⟩
  split
  · exact ⟨nofun, nofun, nofun⟩
  split
  · exact ⟨nofun, nofun, nofun⟩
  split
  next e he => cases lineDecode_error he; exact ⟨nofun, nofun, nofun⟩
  · exact decoderResult_checkCrc (by omega) rfl (.inl (rssiDbm_range _))

/-- What each operation does once it runs: RECEIVE starts, WAIT waits, the others write their result. -/
def opBody : Instr → State → State
  | .lineEnc, s => finish (.ok (.bytes (lineEncode s.lineTable s.operand))) s
  | .lineDec, s => finish (bytesResult (lineDecode s.lineTable s.operand)) s
  | .serEnc, s => finish (.ok (.bytes (serEncode Config.serPadBit s.operand))) s
  | .serDec, s => finish (.ok (.bytes (serDecode s.operand))) s
  | .receive, s => startReceive s
  | .fdecAddr, s => finish (frameResult (decodeAddr s.operand)) s
  | .fdecRaw, s => finish (frameResult (decodeRaw s.operand)) s
  | .fdecLine, s => finish (frameResult (decodeLine s.lineTable s.operand)) s
  | .wait, s => waitBody s

/-- Every operation is its body run by `operate`, RECEIVE only with a configuration (70_reset_and_hazards.md R265). -/
theorem exec_eq_operate {i : Instr} {s : State} (h : i = .receive → s.cfg ≠ none) :
    exec i s = operate (opBody i) s := by
  cases i with
  | receive =>
    obtain ⟨c, hc⟩ := Option.ne_none_iff_exists'.1 (h rfl)
    show execReceive s = _
    rw [execReceive, hc]
    rfl
  | lineEnc | lineDec | serEnc | serDec | fdecAddr | fdecRaw | fdecLine | wait => rfl

theorem execReceive_of_cfg_none {s : State} (hc : s.cfg = none) :
    execReceive s = .refused (if s.st = .fault then .dead else .cfgNotSet) := by
  by_cases hf : s.st = .fault <;> simp [execReceive, hc, hf]

/-- An operation that answers a next state ran from IDLE, a RECEIVE with a configuration. -/
theorem exec_eq_next {i : Instr} {s t : State} (h : exec i s = .next t) :
    s.st = .idle ∧ (i = .receive → s.cfg ≠ none) ∧ t = opBody i (beginOp s) := by
  have hcfg : i = .receive → s.cfg ≠ none := fun hi => by
    subst hi
    exact (execReceive_cases h).2.1
  rw [exec_eq_operate hcfg] at h
  obtain ⟨hst, ht⟩ := operate_cases h
  exact ⟨hst, hcfg, ht⟩

/-- A codec or a frame decoder writes a result of its kind and nothing else (10_state.md R20, 41_frame_decoder.md
R152). -/
theorem opBody_of_pureOp {i : Instr} (hi : pureOp i = true) (s : State) :
    ∃ r, DecoderResult s.operand r ∧ opBody i s = finish r s := by
  cases i with
  | receive | wait => cases hi
  | lineEnc | serEnc | serDec => exact ⟨.ok (.bytes _), trivial, rfl⟩
  | lineDec => exact ⟨_, decoderResult_lineDecode _ _ _, rfl⟩
  | fdecAddr => exact ⟨_, decoderResult_decodeAddr _, rfl⟩
  | fdecRaw => exact ⟨_, decoderResult_decodeRaw _, rfl⟩
  | fdecLine => exact ⟨_, decoderResult_decodeLine _ _, rfl⟩

/-- An operation that answers a next state ran from IDLE and started a RECEIVE, waited, or wrote a codec's or a
decoder's result. -/
theorem exec_cases {i : Instr} {s t : State} (h : exec i s = .next t) :
    s.st = .idle ∧
      (i = .receive ∧ s.cfg ≠ none ∧ t = startReceive s ∨ i = .wait ∧ t = waitBody (beginOp s) ∨
        pureOp i = true ∧ ∃ r, DecoderResult s.operand r ∧ t = finish r (beginOp s)) := by
  obtain ⟨hst, hcfg, rfl⟩ := exec_eq_next h
  refine ⟨hst, ?_⟩
  cases i with
  | receive => exact .inl ⟨rfl, hcfg rfl, rfl⟩
  | wait => exact .inr (.inl ⟨rfl, rfl⟩)
  | lineEnc | lineDec | serEnc | serDec | fdecAddr | fdecRaw | fdecLine =>
    exact .inr (.inr ⟨rfl, opBody_of_pureOp rfl (beginOp s)⟩)

theorem exec_ne_fault {i : Instr} {s : State} {f : Fault} : exec i s ≠ .fault f := by
  by_cases h : i = .receive → s.cfg ≠ none
  · rw [exec_eq_operate h]
    exact operate_ne_fault
  · push Not at h
    obtain ⟨rfl, hc⟩ := h
    exact (execReceive_of_cfg_none hc).trans_ne nofun

end Sys2Proof.Machine
end

section
/-! The invariant of the block (10_state.md R13, R17, 40_fifo_drain.md R117): each of its parts along the transitions
of the drain unit, and the operations and configuration writes, which touch few registers. -/

namespace Sys2Proof.Machine

theorem statusCount_le (b : Byte) : statusCount b ≤ 127 := by
  revert b; decide

/-- The target of a length byte that is not zero, decision D26 (40_fifo_drain.md R106). -/
theorem three_le_target {b : Byte} (hb : b ≠ 0) : 3 ≤ b.toNat + 2 ∧ b.toNat + 2 ≤ 257 := by
  have hne : b.toNat ≠ 0 := fun h => hb (BitVec.eq_of_toNat_eq h)
  have hlt := b.isLt
  omega

theorem emptyBudget_pos {c : Cfg} (h : c.wf = true) : 0 < c.emptyBudget.toNat :=
  Nat.pos_of_ne_zero fun h0 => of_decide_eq_true h (BitVec.eq_of_toNat_eq h0)

theorem afterChunk_st_eq_done {s : State} : (afterChunk s).st = .done ↔ s.last = true := by
  cases hl : s.last <;> simp [hl]

theorem afterChunk_st_eq_pauseP {s : State} : (afterChunk s).st = .pauseP ↔ s.last = false := by
  cases hl : s.last <;> simp [hl]

/-- READ leads to DONE and to PAUSE_P only (R116). -/
theorem afterChunk_st_ne {s : State} {d : DrainState} (hdone : d ≠ .done := by decide)
    (hpause : d ≠ .pauseP := by decide) : (afterChunk s).st ≠ d := by
  cases hl : s.last <;> simpa [hl] using Ne.symm ‹_›

/-- A chunk appended to an exact buffer leaves it exact (R15, R115). -/
theorem bufExact_appended {chunk : List Byte} {s : State} (h : BufExact s) (hlen : chunk.length = s.n) (c : Cfg)
    (b : Byte) : BufExact (appended c b chunk s) := by
  show (s.buf.writeBytes s.cur chunk).map Prod.fst = List.range (s.cur + s.n)
  rw [← hlen]
  exact writeBytes_range h

/-! ## What the transitions leave as it is -/

theorem DrainMove.cfg_eq {c : Cfg} {s t : State} (h : DrainMove c s t) : t.cfg = s.cfg := by
  cases h <;> rfl

/-! ## The parts of the invariant along the transitions -/

section
variable {c : Cfg} {s t : State}

theorem DrainMove.registerRanges (hc : s.cfg = some c) (hs : BlockInv s) (h : DrainMove c s t) :
    RegisterRanges t := by
  obtain ⟨⟨htgt, hcur, havail, hn, hnone, hempty⟩, -, -, -, hquery, hread, -, -, -⟩ := hs
  have hset : s.cfg ≠ none := by simp [hc]
  cases h with
  | busFault | zeroLength | headerOverflow | overflow | nothingToRead | pause | flushed | frameDone =>
    exact ⟨htgt, hcur, havail, hn, hnone, hempty⟩
  | target hst hlen hne => exact ⟨.inr (three_le_target hne), hcur, havail, hn, hnone, hempty⟩
  | budgetSpent hst | nothingThere hst =>
    obtain ⟨-, -, -, hleft⟩ := hquery (.inl hst)
    exact ⟨htgt, hcur, Nat.zero_le _, hn, fun h0 => absurd h0 hset, hleft⟩
  | garbage hst => exact ⟨htgt, hcur, statusCount_le _, hn, hnone, hempty⟩
  | completing hst h1 h64 | leavingOne hst h1 h64 =>
    refine ⟨htgt, hcur, ?_, ?_, fun _ => rfl, fun _ _ => Nat.zero_le _⟩ <;>
    · simp only
      omega
  | chunkRead hst hn0 hlen hfit =>
    obtain ⟨-, hlacks, -⟩ := hread hst
    refine ⟨htgt, ?_, havail, hn, hnone, hempty⟩
    simp only [afterChunk_cur]
    omega

theorem DrainMove.bufferInv (hs : BlockInv s) (h : DrainMove c s t) : BufferInv t := by
  obtain ⟨-, ⟨hwf, hin, hnil⟩, -, -, -, hread, -, -, -⟩ := hs
  cases h with
  | busFault | flushed | frameDone => exact ⟨rfl, nofun, fun _ => rfl⟩
  | zeroLength | headerOverflow | target | overflow | budgetSpent | nothingThere | completing | leavingOne | pause =>
    exact ⟨hwf, hin, nofun⟩
  | garbage hst => exact ⟨hwf, hin, hnil⟩
  | nothingToRead hst => exact ⟨hwf, hin, fun hst' => absurd hst' (not_or_intro afterChunk_st_ne afterChunk_st_ne)⟩
  | @chunkRead b chunk hst hn hlen hfit =>
    obtain ⟨-, -, hexact, -⟩ := hread hst
    have hkeys := keys_lt_of_range (writeBytes_range (d := chunk) hexact)
    refine ⟨wf_writeBytes hwf, fun cell hcell => ?_,
      fun hst' => absurd hst' (not_or_intro afterChunk_st_ne afterChunk_st_ne)⟩
    have := hkeys cell hcell
    omega

theorem DrainMove.cfgInv (hs : BlockInv s) (h : DrainMove c s t) : CfgInv t := by
  obtain ⟨-, -, ⟨hlegal, hset⟩, -⟩ := hs
  rw [CfgInv, h.cfg_eq]
  exact ⟨hlegal, fun _ => hset h.receiving_left⟩

/-- No transition leads to HDR: only the start of a RECEIVE does (R123). -/
theorem DrainMove.hdrInv (h : DrainMove c s t) : HdrInv t := by
  intro ht
  cases h with
  | nothingToRead | chunkRead => exact absurd ht afterChunk_st_ne
  | garbage hst => cases hst.symm.trans ht
  | busFault | zeroLength | headerOverflow | target | overflow | budgetSpent | nothingThere | completing | leavingOne
  | pause | flushed | frameDone => cases ht

theorem DrainMove.queryInv (hc : s.cfg = some c) (hs : BlockInv s) (h : DrainMove c s t) : QueryInv t := by
  obtain ⟨-, -, ⟨hlegal, -⟩, hhdr, hquery, hread, -, -, -⟩ := hs
  intro ht
  cases h with
  | busFault | zeroLength | headerOverflow | overflow | budgetSpent | completing | leavingOne | flushed | frameDone =>
    simp at ht
  | target hst hlen hne =>
    obtain ⟨hcur, -, hempty, -, hbuf⟩ := hhdr hst
    obtain ⟨hge, -⟩ := three_le_target hne
    refine ⟨hge, ?_, by simp [BufExact, hbuf, hcur], fun c' hc' => hempty ▸ emptyBudget_pos (hlegal c' hc')⟩
    simp only [record_cur, answerTaken_cur, hcur]
    omega
  | nothingThere hst hleft =>
    obtain ⟨htgt, hlacks, hexact, -⟩ := hquery (.inl hst)
    refine ⟨htgt, hlacks, hexact, fun c' hc' => ?_⟩
    obtain rfl : c = c' := Option.some.inj (hc.symm.trans hc')
    exact hleft
  | garbage hst => exact hquery (.inl hst)
  | pause hst => exact hquery (.inr hst)
  | nothingToRead hst hn =>
    obtain ⟨htgt, hlacks, hexact, -, -, hempty, -⟩ := hread hst
    exact ⟨htgt, hlacks, hexact, fun c' hc' => hempty ▸ emptyBudget_pos (hlegal c' hc')⟩
  | @chunkRead b chunk hst hn hlen =>
    obtain ⟨htgt, -, hexact, -, -, hempty, hlast, hchunk⟩ := hread hst
    have hl : s.last = false := by
      rcases ht with ht | ht | ht
      · exact absurd ht afterChunk_st_ne
      · exact afterChunk_st_eq_pauseP.1 ht
      · exact absurd ht afterChunk_st_ne
    have hshort : s.cur + s.avail < s.tgt := Nat.lt_of_not_le (of_decide_eq_false (hlast.symm.trans hl))
    rw [hl, if_neg Bool.false_ne_true] at hchunk
    refine ⟨htgt, ?_, bufExact_appended hexact hlen c b, fun c' hc' => hempty ▸ emptyBudget_pos (hlegal c' hc')⟩
    simp only [afterChunk_cur, afterChunk_tgt, record_tgt, answerTaken_tgt]
    omega

theorem DrainMove.readInv (hs : BlockInv s) (h : DrainMove c s t) : ReadInv t := by
  obtain ⟨-, -, -, -, hquery, -⟩ := hs
  intro ht
  cases h with
  | completing hst h1 h64 hge =>
    obtain ⟨htgt, hlacks, hexact, -⟩ := hquery (.inl hst)
    exact ⟨htgt, hlacks, hexact, h1, h64, rfl, (decide_eq_true hge).symm, rfl⟩
  | leavingOne hst h1 h64 hlt =>
    obtain ⟨htgt, hlacks, hexact, -⟩ := hquery (.inl hst)
    exact ⟨htgt, hlacks, hexact, h1, h64, rfl, (decide_eq_false (Nat.not_le.2 hlt)).symm, rfl⟩
  | nothingToRead | chunkRead => exact absurd ht afterChunk_st_ne
  | garbage hst => cases hst.symm.trans ht
  | busFault | zeroLength | headerOverflow | target | overflow | budgetSpent | nothingThere | pause | flushed
  | frameDone => cases ht

theorem DrainMove.doneInv (hs : BlockInv s) (h : DrainMove c s t) : DoneInv t := by
  obtain ⟨-, -, -, -, -, hread, -, -, -⟩ := hs
  intro ht
  cases h with
  | nothingToRead hst hn =>
    obtain ⟨-, -, -, havail, -, -, -, hchunk⟩ := hread hst
    have hl : s.last = true := afterChunk_st_eq_done.1 ht
    rw [hl, if_pos rfl] at hchunk
    omega
  | @chunkRead b chunk hst hn hlen =>
    obtain ⟨htgt, hlacks, hexact, -, h64, -, hlast, hchunk⟩ := hread hst
    have hl : s.last = true := afterChunk_st_eq_done.1 ht
    have hfull : s.tgt ≤ s.cur + s.avail := of_decide_eq_true (hlast.symm.trans hl)
    rw [hl, if_pos rfl] at hchunk
    refine ⟨htgt, ?_, ?_, bufExact_appended hexact hlen c b⟩ <;>
    · simp only [afterChunk_cur, afterChunk_tgt, record_tgt, answerTaken_tgt]
      omega
  | garbage hst => cases hst.symm.trans ht
  | busFault | zeroLength | headerOverflow | target | overflow | budgetSpent | nothingThere | completing | leavingOne
  | pause | flushed | frameDone => cases ht

theorem DrainMove.flushInv (h : DrainMove c s t) : FlushInv t := by
  intro ht
  cases h with
  | zeroLength => exact .inr (.inl rfl)
  | headerOverflow | overflow => exact .inl rfl
  | budgetSpent => exact .inr (.inr rfl)
  | nothingToRead | chunkRead => exact absurd ht afterChunk_st_ne
  | garbage hst => cases hst.symm.trans ht
  | busFault | target | nothingThere | completing | leavingOne | pause | flushed | frameDone => cases ht

/-- While a RECEIVE is in progress the result is not `BusFault`, and it becomes that only on the way to FAULT (R122).
-/
theorem DrainMove.faultInv (hs : BlockInv s) (h : DrainMove c s t) : FaultInv t := by
  obtain ⟨-, -, -, -, -, -, -, hflush, hfault⟩ := hs
  have hres : s.res ≠ .err .busFault := fun hf => by
    have hr := h.receiving_left
    rw [hfault.2 hf] at hr
    cases hr
  cases h with
  | busFault => exact iff_of_true rfl rfl
  | flushed hst =>
    refine iff_of_false nofun ?_
    rcases hflush hst with hp | hp | hp <;> simp [hp]
  | frameDone => exact iff_of_false nofun nofun
  | nothingToRead | chunkRead => exact iff_of_false afterChunk_st_ne hres
  | garbage hst => exact iff_of_false (by simp [hst]) hres
  | zeroLength | headerOverflow | target | overflow | budgetSpent | nothingThere | completing | leavingOne | pause =>
    exact iff_of_false nofun hres

theorem DrainMove.blockInv (hc : s.cfg = some c) (hs : BlockInv s) (h : DrainMove c s t) : BlockInv t :=
  ⟨h.registerRanges hc hs, h.bufferInv hs, h.cfgInv hs, h.hdrInv, h.queryInv hc hs, h.readInv hs, h.doneInv hs,
    h.flushInv, h.faultInv hs⟩

end

/-! ## The invariant along the other steps -/

/-- Between operations the invariant asks nothing of the registers but their ranges. -/
theorem blockInv_of_idle {s : State} (hst : s.st = .idle) (hreg : RegisterRanges s) (hbuf : s.buf = [])
    (hcfg : ∀ c ∈ s.cfg, c.wf = true) (hres : s.res ≠ .err .busFault) : BlockInv s := by
  have hnot : ∀ d, d ≠ .idle → s.st ≠ d := fun d hd h => hd (h.symm.trans hst)
  refine ⟨hreg, ⟨by rw [hbuf]; rfl, by simp [hbuf], fun _ => hbuf⟩, ⟨hcfg, by simp [hst, receiving]⟩, ?_, ?_, ?_, ?_, ?_,
    iff_of_false (hnot _ nofun) hres⟩ <;> simp [hst]

theorem DecoderResult.ne_busFault {x : List Byte} {r : Result} (h : DecoderResult x r) : r ≠ .err .busFault := by
  rintro rfl
  exact h.2.2 rfl

theorem blockInv_startReceive {s : State} (hst : s.st = .idle) (hset : s.cfg ≠ none) (hs : BlockInv s) :
    BlockInv (startReceive s) := by
  obtain ⟨⟨-, -, havail, hn, -, -⟩, -, ⟨hlegal, -⟩, -, -, -, -, -, hfault⟩ := hs
  have hres : s.res ≠ .err .busFault := fun hf => by cases hst.symm.trans (hfault.2 hf)
  exact ⟨⟨.inl rfl, Nat.zero_le _, havail, hn, fun _ => rfl, fun _ _ => Nat.zero_le _⟩, ⟨rfl, nofun, fun _ => rfl⟩,
    ⟨hlegal, fun _ => hset⟩, fun _ => ⟨rfl, rfl, rfl, rfl, rfl⟩, by simp, nofun, nofun, nofun,
    iff_of_false nofun hres⟩

theorem blockInv_of_exec {i : Instr} {s t : State} (hs : BlockInv s) (h : exec i s = .next t) : BlockInv t := by
  obtain ⟨hst, ⟨-, hset, rfl⟩ | ⟨-, rfl⟩ | ⟨-, r, hr, rfl⟩⟩ := exec_cases h
  · exact blockInv_startReceive hst hset hs
  · obtain ⟨hreg, ⟨-, -, hnil⟩, ⟨hlegal, -⟩, -⟩ := hs
    exact blockInv_of_idle hst hreg (hnil (.inl hst)) hlegal nofun
  · obtain ⟨hreg, ⟨-, -, hnil⟩, ⟨hlegal, -⟩, -⟩ := hs
    exact blockInv_of_idle hst hreg (hnil (.inl hst)) hlegal hr.ne_busFault

theorem blockInv_of_configure {w : CfgWrite} {s t : State} (hs : BlockInv s) (h : configure w s = .next t) :
    BlockInv t := by
  obtain ⟨hnone, -, g, -, hbudget, rfl⟩ := configure_cases h
  obtain ⟨⟨htgt, hcur, havail, hn, hempty, -⟩, hbuf, ⟨-, hset⟩, hhdr, hquery, hread, hdone, hflush, hfault⟩ := hs
  have hidle : receiving s.st ≠ true := fun hr => hset hr hnone
  refine ⟨⟨htgt, hcur, havail, hn, nofun, fun c hc => ?_⟩, hbuf, ⟨fun c hc => ?_, nofun⟩, hhdr, fun hq => ?_, hread,
    hdone, hflush, hfault⟩
  · simp [hempty hnone]
  · cases hc
    exact decide_eq_true hbudget
  · rcases hq with hq | hq | hq <;> exact absurd (by rw [show s.st = _ from hq]; rfl) hidle

/-- Settles O53: a step is a transition of R123, rest, a configuration write or an operation, and each keeps the
invariant. -/
theorem everyStepKeepsTheInvariant : Obligations.EveryStepKeepsTheInvariant := by
  intro s t hs h
  rcases step_cases h with ⟨hr, hd⟩ | ⟨-, -, rfl⟩ | ⟨-, w, rest, -, hw⟩ | ⟨-, word, x, tm, rest, i, -, -, hi⟩
  · obtain ⟨c, hc, hmove⟩ := exists_drainMove hr hd
    exact hmove.blockInv hc hs
  · exact hs
  · exact blockInv_of_configure (s := { s with requests := rest }) hs hw
  · exact blockInv_of_exec (s := takeCommand rest x tm s) hs hi

end Sys2Proof.Machine
end

section
/-! What every step keeps beside the invariant of the block: the configuration and the parameters, the result while a
RECEIVE is in progress, the frames that passed the CRC check, the flush strobes and the bus events of the trace; and
that no step faults. -/

namespace Sys2Proof.Machine

/-! ## No fault -/

theorem configure_ne_fault {w : CfgWrite} {s : State} {f : Fault} : configure w s ≠ .fault f := by
  unfold configure
  split
  · nofun
  split
  · nofun
  split
  · nofun
  split <;> nofun

/-- The chunk of the tie-break rule fits: at most 255 bytes are there and at most 64 come (40_fifo_drain.md R117). -/
theorem drainRead_ne_fault {s : State} (c : Cfg) {f : Fault} (hs : BlockInv s) (hst : s.st = .read) :
    drainRead c s ≠ .fault f := by
  obtain ⟨⟨htgt, -, -, hn, -⟩, -, -, -, -, hread, -⟩ := hs
  obtain ⟨-, hlacks, -⟩ := hread hst
  rcases drainRead_cases c s with ⟨-, e⟩ | ⟨-, -, e⟩ | ⟨b, data, -, -, chunk, -, ⟨-, e⟩ | ⟨hover, -⟩⟩
  · exact e.trans_ne nofun
  · exact e.trans_ne nofun
  · exact e.trans_ne nofun
  · simp only [Config.bufCap] at hover
    omega

/-- At DONE every byte below `cur` has a value (10_state.md R29). -/
theorem drainDone_ne_fault {s : State} {f : Fault} (hs : BlockInv s) (hst : s.st = .done) :
    drainDone s ≠ .fault f := by
  obtain ⟨-, -, -, -, -, -, hdone, -⟩ := hs
  obtain ⟨-, -, -, hexact⟩ := hdone hst
  exact (drainDone_ok (readBytes_all hexact)).trans_ne nofun

/-- Settles O54: only READ and DONE touch the buffer, and the invariant gives them room and values. -/
theorem noStepFaults : Obligations.NoStepFaults := by
  intro s f hs h
  unfold step at h
  split at h
  · unfold drainStep at h
    split at h
    · cases h
    split at h
    case h_4 hst => exact drainRead_ne_fault _ hs hst h
    case h_8 hst => exact drainDone_ne_fault hs hst h
    all_goals cases h
  · cases h
  · exact configure_ne_fault h
  · exact exec_ne_fault h
  · cases h

/-! ## The configuration and the parameters -/

theorem DrainMove.lineTable_eq {c : Cfg} {s t : State} (h : DrainMove c s t) : t.lineTable = s.lineTable := by
  cases h <;> rfl

theorem DrainMove.hdrOvfBytes_eq {c : Cfg} {s t : State} (h : DrainMove c s t) : t.hdrOvfBytes = s.hdrOvfBytes := by
  cases h <;> rfl

/-- No operation writes the configuration or a parameter (10_state.md R11, R24). -/
theorem config_of_exec {i : Instr} {s t : State} (h : exec i s = .next t) :
    t.cfg = s.cfg ∧ t.lineTable = s.lineTable ∧ t.hdrOvfBytes = s.hdrOvfBytes := by
  obtain ⟨-, ⟨-, -, rfl⟩ | ⟨-, rfl⟩ | ⟨-, r, -, rfl⟩⟩ := exec_cases h <;> exact ⟨rfl, rfl, rfl⟩

/-- Settles O9: only a configuration write touches the record, and it is refused when the record is set. -/
theorem configurationIsConstantOnceSet : Obligations.ConfigurationIsConstantOnceSet := by
  intro s t h
  rcases step_cases h with ⟨hr, hd⟩ | ⟨-, -, rfl⟩ | ⟨-, w, rest, -, hw⟩ | ⟨-, word, x, tm, rest, i, -, -, hi⟩
  · obtain ⟨c, -, hmove⟩ := exists_drainMove hr hd
    exact ⟨fun c' hc' => hmove.cfg_eq.trans hc', hmove.lineTable_eq, hmove.hdrOvfBytes_eq⟩
  · exact ⟨fun _ hc => hc, rfl, rfl⟩
  · obtain ⟨hnone, -, g, -, -, rfl⟩ := configure_cases hw
    exact ⟨fun c hc => absurd (hnone.symm.trans hc) nofun, rfl, rfl⟩
  · obtain ⟨hcfg, htable, hovf⟩ := config_of_exec hi
    exact ⟨fun c hc => hcfg.trans hc, htable, hovf⟩

/-! ## The result register -/

theorem receiving_afterChunk (s : State) : receiving (afterChunk s).st = true := by
  cases hl : s.last <;> simp [hl, receiving]

/-- A transition either goes on and keeps the result, or ends the operation with bytes or an error (10_state.md R16).
-/
theorem DrainMove.res_cases {c : Cfg} {s t : State} (h : DrainMove c s t) :
    receiving t.st = true ∧ t.res = s.res ∨ receiving t.st = false ∧ ∀ f, t.res ≠ .ok (.frame f) := by
  cases h with
  | busFault | flushed | frameDone => exact .inr ⟨rfl, nofun⟩
  | nothingToRead | chunkRead => exact .inl ⟨receiving_afterChunk _, rfl⟩
  | garbage hst => exact .inl ⟨by simp [hst, receiving], rfl⟩
  | zeroLength | headerOverflow | target | overflow | budgetSpent | nothingThere | completing | leavingOne | pause =>
    exact .inl ⟨rfl, rfl⟩

/-- Settles O10: the start leaves `res`, and so does every transition that does not end the operation. -/
theorem resultIsWrittenOnlyAtTheEnd : Obligations.ResultIsWrittenOnlyAtTheEnd := by
  refine fun s t => ⟨fun h => ?_, fun h hs ht => ?_⟩
  · obtain ⟨-, -, rfl⟩ := execReceive_cases h
    rfl
  · obtain ⟨c, -, hmove⟩ := exists_drainMove hs ((step_receiving hs).symm.trans h)
    rcases hmove.res_cases with ⟨-, e⟩ | ⟨hend, -⟩
    · exact e
    · cases hend.symm.trans ht

/-! ## Frames in the result -/

/-- A result that is no frame has nothing to check. -/
theorem frameChecked_of_ne {s : State} (h : ∀ f, s.res ≠ .ok (.frame f)) : FrameChecked s :=
  fun f hf => absurd hf (h f)

theorem frameChecked_of_decoderResult {s : State} (h : DecoderResult s.operand s.res) : FrameChecked s := by
  intro f hf
  rw [hf] at h
  obtain ⟨hok, hrssi, hflag⟩ := h
  exact ⟨hok, hrssi, fun _ => hflag⟩

/-- While a RECEIVE is in progress the frame of an earlier operation keeps its fields, whatever the operand register
holds. -/
theorem FrameChecked.of_receiving {s t : State} (hs : FrameChecked s) (hres : t.res = s.res)
    (ht : receiving t.st = true) : FrameChecked t := by
  intro f hf
  obtain ⟨hok, hrssi, -⟩ := hs f (hres.symm.trans hf)
  exact ⟨hok, hrssi, fun hn => nomatch ht.symm.trans hn⟩

theorem FrameChecked.of_drainMove {c : Cfg} {s t : State} (hs : FrameChecked s) (h : DrainMove c s t) :
    FrameChecked t := by
  rcases h.res_cases with ⟨ht, hres⟩ | ⟨-, hne⟩
  · exact hs.of_receiving hres ht
  · exact frameChecked_of_ne hne

/-- Settles O30: an operation that writes a frame has checked the last byte of its operand, and RECEIVE, which takes
another operand and keeps the frame, is then in progress. -/
theorem framesInTheResultPassedTheCheck : Obligations.FramesInTheResultPassedTheCheck := by
  intro s t hs h
  rcases step_cases h with ⟨hr, hd⟩ | ⟨-, -, rfl⟩ | ⟨-, w, rest, -, hw⟩ | ⟨-, word, x, tm, rest, i, -, -, hi⟩
  · obtain ⟨c, -, hmove⟩ := exists_drainMove hr hd
    exact hs.of_drainMove hmove
  · exact hs
  · obtain ⟨-, -, g, -, -, rfl⟩ := configure_cases hw
    exact hs
  · obtain ⟨-, ⟨-, -, rfl⟩ | ⟨-, rfl⟩ | ⟨-, r, hr, rfl⟩⟩ := exec_cases hi
    · exact hs.of_receiving rfl rfl
    · exact frameChecked_of_ne nofun
    · exact frameChecked_of_decoderResult hr

/-! ## The caller -/

/-- A move of the caller leaves the block alone but for one more request, and hands over only a frame that `deliver`
names. -/
theorem applyMove_cases {m : CallerMove} {l l' : Loop} (h : applyMove m l = .next l') :
    (∃ q, l'.block = { l.block with requests := q }) ∧
      (l'.delivered = l.delivered ∨ ∃ f, m = .deliver f ∧ l'.delivered = l.delivered ++ [f]) := by
  cases m with
  | issue i operand next => cases h; exact ⟨⟨_, rfl⟩, .inl rfl⟩
  | deliver f => cases h; exact ⟨⟨_, rfl⟩, .inr ⟨f, rfl, rfl⟩⟩
  | stop => cases h; exact ⟨⟨_, rfl⟩, .inl rfl⟩
  | refuse r => cases h

/-- Settles O60: the block's own step is that of O30, and the caller hands over only the frame in the result register,
which the invariant says has been checked. -/
theorem onlyCheckedFramesAreDelivered : Obligations.OnlyCheckedFramesAreDelivered := by
  intro l l' hl h
  rcases loopStep_cases h with rfl | ⟨s, hs, rfl⟩ | ⟨hidle, -, hmove⟩
  · exact ⟨hl, .inl rfl, id⟩
  · exact ⟨framesInTheResultPassedTheCheck l.block s hl hs, .inl rfl, id⟩
  obtain ⟨⟨q, hblock⟩, hsame | ⟨f, hdeliver, hnew⟩⟩ := applyMove_cases hmove
  · rw [hblock, hsame]
    exact ⟨hl, .inl rfl, id⟩
  · have hres := callerMove_deliver hdeliver
    obtain ⟨hok, -, hflag⟩ := hl f hres
    rw [hblock, hnew]
    exact ⟨hl, .inr ⟨f, rfl, hres, hok, hflag hidle⟩,
      fun hall g hg => (List.mem_append.1 hg).elim (hall g) fun hg => List.mem_singleton.1 hg ▸ hok⟩

/-! ## The ranges of the registers -/

/-- The chunk that completes the frame and offers no more than it needs fills it exactly (10_state.md R17). -/
theorem cur_eq_tgt_of_exact_chunk {s t : State} (hs : BlockInv s) (h : step s = .next t) (hst : s.st = .read)
    (ht : t.st = .done) (hexact : s.avail ≤ s.tgt - s.cur) : t.cur = t.tgt := by
  obtain ⟨-, -, ⟨-, hset⟩, -, -, hread, -⟩ := hs
  obtain ⟨-, hlacks, -, havail, -, -, hlast, hchunk⟩ := hread hst
  obtain ⟨c, hc⟩ := Option.ne_none_iff_exists'.1 (hset (by rw [hst]; rfl))
  rw [step_read hst hc] at h
  rcases drainRead_cases c s with ⟨hn, e⟩ | ⟨-, -, e⟩ | ⟨b, data, hn, -, chunk, -, ⟨hfit, e⟩ | ⟨-, i, e⟩⟩ <;>
    cases e.symm.trans h
  · have hl : s.last = true := afterChunk_st_eq_done.1 ht
    rw [hl, if_pos rfl] at hchunk
    omega
  · cases ht
  · have hl : s.last = true := afterChunk_st_eq_done.1 ht
    have hfull : s.tgt ≤ s.cur + s.avail := of_decide_eq_true (hlast.symm.trans hl)
    rw [hl, if_pos rfl] at hchunk
    show s.cur + s.n = s.tgt
    omega

/-- The ranges of the invariant fit the widths of 10_state.md R13. -/
theorem widths_of_registerRanges {s : State} (h : RegisterRanges s) :
    s.tgt < 2 ^ 9 ∧ s.cur < 2 ^ 9 ∧ s.avail < 2 ^ 7 ∧ s.empty < 2 ^ 8 ∧ s.n < 2 ^ 7 ∧ s.tgt ≤ 257 ∧ s.cur ≤ 319 := by
  obtain ⟨htgt, hcur, havail, hn, hnone, hempty⟩ := h
  have hlt : s.empty < 2 ^ 8 := by
    cases hc : s.cfg with
    | none => simp [hnone hc]
    | some c => exact Nat.lt_of_le_of_lt (hempty c hc) c.emptyBudget.isLt
  omega

/-- Settles O55: the next state meets the invariant, whose ranges fit the widths. -/
theorem registersStayInRange : Obligations.RegistersStayInRange := by
  intro s t hs h
  obtain ⟨hreg, -, -, -, hquery, -, hdone, -, -⟩ := everyStepKeepsTheInvariant s t hs h
  refine ⟨widths_of_registerRanges hreg, fun ht => ?_, fun ht => ?_, cur_eq_tgt_of_exact_chunk hs h⟩
  · obtain ⟨-, hlacks, -⟩ := hquery (.inl ht)
    omega
  · obtain ⟨-, hge, hle, -⟩ := hdone ht
    exact ⟨hge, hle⟩

/-! ## The flush strobes of a trace -/

theorem strobeCount_append (l m : List BusEvent) : strobeCount (l ++ m) = strobeCount l + strobeCount m := by
  simp [strobeCount]

/-- No transition but the last of an error issues a strobe, and that one issues one (40_fifo_drain.md R120). -/
theorem DrainMove.strobeInv {c : Cfg} {s t : State} (hs : BlockInv s) (hcount : strobeCount s.trace = 0)
    (h : DrainMove c s t) : StrobeInv t := by
  obtain ⟨-, -, -, -, -, -, -, hflush, -⟩ := hs
  have hadd : ∀ e, strobeCount [e] = 0 → strobeCount (s.trace ++ [e]) = 0 := fun e he => by
    rw [strobeCount_append, hcount, he]
  cases h with
  | busFault | zeroLength | headerOverflow | target | overflow | budgetSpent | nothingThere | completing
  | leavingOne | pause =>
    exact ⟨fun _ => hadd _ rfl, nofun⟩
  | garbage hst =>
    exact ⟨fun _ => hadd _ rfl, fun ht => nomatch hst.symm.trans ht⟩
  | nothingToRead => exact ⟨fun _ => hcount, fun ht => absurd ht afterChunk_st_ne⟩
  | chunkRead =>
    exact ⟨fun _ => hadd _ rfl, fun ht => absurd ht afterChunk_st_ne⟩
  | @flushed b hst =>
    have hone : strobeCount (s.trace ++ [.strobe c.cmdFlush b]) = 1 := by
      rw [strobeCount_append, hcount]
      rfl
    refine ⟨nofun, fun _ => ?_⟩
    rcases hflush hst with hp | hp | hp <;> simp [hp, hone]
  | frameDone => exact ⟨nofun, fun _ => hcount⟩

/-- After an operation that ended at once the trace is empty, and its error is none of the drain unit's. -/
theorem strobeInv_of_decoderResult {x : List Byte} {s : State} (htrace : s.trace = [])
    (hres : DecoderResult x s.res) : StrobeInv s := by
  refine ⟨fun _ => by rw [htrace]; rfl, fun _ => ?_⟩
  cases hr : s.res with
  | ok v => simp [htrace, strobeCount]
  | err e =>
    rw [hr] at hres
    obtain ⟨hovf, htimeout, hbus⟩ := hres
    cases e with
    | overflow => exact absurd rfl hovf
    | receiveTimeout => exact absurd rfl htimeout
    | busFault => exact absurd rfl hbus
    | invalidLength => exact .inr htrace
    | crcError | codecError | headerMismatch | markerNotFound => exact htrace

/-- Settles O56: the trace holds no strobe while a RECEIVE is in progress, so the flush adds the only one; every other
operation starts with an empty trace. -/
theorem exactlyOneFlushOnRecoverableErrors : Obligations.ExactlyOneFlushOnRecoverableErrors := by
  intro s t hs hstrobe h
  rcases step_cases h with ⟨hr, hd⟩ | ⟨-, -, rfl⟩ | ⟨-, w, rest, -, hw⟩ | ⟨-, word, x, tm, rest, i, -, -, hi⟩
  · obtain ⟨c, -, hmove⟩ := exists_drainMove hr hd
    exact hmove.strobeInv hs (hstrobe.1 (.inl hr))
  · exact hstrobe
  · obtain ⟨-, -, g, -, -, rfl⟩ := configure_cases hw
    exact hstrobe
  · obtain ⟨-, ⟨-, -, rfl⟩ | ⟨-, rfl⟩ | ⟨-, r, hr, rfl⟩⟩ := exec_cases hi
    · exact ⟨fun _ => rfl, nofun⟩
    · exact strobeInv_of_decoderResult (x := x) rfl trivial
    · exact strobeInv_of_decoderResult rfl hr

/-! ## The events of a trace -/

theorem forall_mem_append_singleton {p : BusEvent → Prop} {l : List BusEvent} {e : BusEvent} (hl : ∀ x ∈ l, p x)
    (he : p e) : ∀ x ∈ l ++ [e], p x :=
  fun x hx => (List.mem_append.1 hx).elim (hl x) fun hx => List.mem_singleton.1 hx ▸ he

/-- The one event a transition adds is legal: HDR asks for one byte, READ for the 1 to 64 of the chunk (20_memory.md
R57). -/
theorem DrainMove.eventsLegal {c : Cfg} {s t : State} (hs : BlockInv s) (hl : ∀ e ∈ s.trace, eventLegal e = true)
    (h : DrainMove c s t) : ∀ e ∈ t.trace, eventLegal e = true := by
  obtain ⟨⟨-, -, -, hn64, -⟩, -⟩ := hs
  cases h with
  | nothingToRead | frameDone => exact hl
  | busFault | overflow | budgetSpent | nothingThere | garbage | completing | leavingOne | pause | flushed =>
    exact forall_mem_append_singleton hl rfl
  | zeroLength hst hlen | headerOverflow hst hlen | target hst hlen =>
    exact forall_mem_append_singleton hl (by simp [eventLegal, hlen])
  | chunkRead hst hn hlen =>
    exact forall_mem_append_singleton hl (by simp [eventLegal, hlen, hn64, Nat.one_le_iff_ne_zero, hn])

/-- Settles O57: a transition adds at most one event, a legal one, and every other operation starts with an empty
trace and adds none. -/
theorem busTraceIsLegal : Obligations.BusTraceIsLegal := by
  intro s t hs hl h
  rcases step_cases h with ⟨hr, hd⟩ | ⟨-, -, rfl⟩ | ⟨-, w, rest, -, hw⟩ | ⟨-, word, x, tm, rest, i, -, -, hi⟩
  · obtain ⟨c, -, hmove⟩ := exists_drainMove hr hd
    exact hmove.eventsLegal hs hl
  · exact hl
  · obtain ⟨-, -, g, -, -, rfl⟩ := configure_cases hw
    exact hl
  · obtain ⟨-, ⟨-, -, rfl⟩ | ⟨-, rfl⟩ | ⟨-, r, -, rfl⟩⟩ := exec_cases hi <;> nofun

/-! ## Reset -/

/-- Settles O52: at reset the block is idle, its buffer and its trace are empty and the result is no bytes. -/
theorem invariantHoldsAtReset : Obligations.InvariantHoldsAtReset :=
  ⟨blockInv_of_idle rfl (by decide) rfl nofun nofun, strobeInv_of_decoderResult (x := []) rfl trivial,
    frameChecked_of_ne nofun⟩

/-- Settles O51: either reset gives the block the registers of the reset state and keeps what is outside it. -/
theorem resetLeavesTheSpecsValues : Obligations.ResetLeavesTheSpecsValues := by
  refine ⟨?_, fun s => ⟨rfl, rfl, rfl, rfl, rfl, rfl⟩⟩
  rintro s (rfl | ⟨u, rfl⟩) <;> exact ⟨rfl, rfl, rfl, fun _ => rfl⟩

end Sys2Proof.Machine
end

section
/-! The line codec's inverse laws (42_line_codec.md R174, R177, R178) and its default table (30_encoding.md R76 to
R78). On an injective table a list decodes to exactly the list it is the encoding of, and the statements are read off
that. -/

namespace Sys2Proof.Machine

/-! ## Decoding inverts encoding -/

/-- A list that decodes is the encoding of what it decodes to (R178). -/
theorem lineEncode_of_decodePairs {t : Vector Byte 16} : ∀ {y x : List Byte}, decodePairs t y = some x →
    lineEncode t x = y
  | [], _, h => by cases h; rfl
  | [_], _, h => nomatch h
  | h :: l :: rest, _, hx => by
    obtain ⟨hv, lv, xs, hh, hl, hrest, rfl⟩ := decodePairs_cons_cons_eq_some hx
    rw [lineEncode_cons, hi_join, lo_join, symbolOf_of_symbolValue hh, symbolOf_of_symbolValue hl,
      lineEncode_of_decodePairs hrest]

/-- On an injective table the pairs of an encoding decode to its bytes (R177). -/
theorem decodePairs_lineEncode {t : Vector Byte 16} (ht : tableInjective t = true) (x : List Byte) :
    decodePairs t (lineEncode t x) = some x := by
  induction x with
  | nil => rfl
  | cons b x ih =>
    simp only [lineEncode_cons, decodePairs, symbolValue_symbolOf ht, ih, join_hi_lo]

/-- Decoding succeeds exactly when the pairs decode: a list of odd length has no pairs (R174, R176). -/
theorem lineDecode_eq_ok {t : Vector Byte 16} {y x : List Byte} :
    lineDecode t y = .ok x ↔ y.length % 2 = 0 ∧ decodePairs t y = some x := by
  unfold lineDecode
  by_cases hodd : y.length % 2 = 1
  · simp [hodd]
  · have heven : y.length % 2 = 0 := by omega
    cases decodePairs t y <;> simp [heven]

theorem lineDecode_eq_ok_iff {t : Vector Byte 16} (ht : tableInjective t = true) {y x : List Byte} :
    lineDecode t y = .ok x ↔ lineEncode t x = y := by
  rw [lineDecode_eq_ok]
  constructor
  · rintro ⟨-, h⟩
    exact lineEncode_of_decodePairs h
  · rintro rfl
    exact ⟨by rw [length_lineEncode]; omega, decodePairs_lineEncode ht x⟩

theorem lineDecode_lineEncode {t : Vector Byte 16} (ht : tableInjective t = true) (x : List Byte) :
    lineDecode t (lineEncode t x) = .ok x :=
  (lineDecode_eq_ok_iff ht).2 rfl

/-- Every even list of symbols is an encoding: each pair is that of the byte of its two nibbles. -/
theorem exists_lineEncode_eq {t : Vector Byte 16} : ∀ {y : List Byte}, y.length % 2 = 0 →
    (∀ b ∈ y, ∃ v, symbolOf t v = b) → ∃ x, lineEncode t x = y
  | [], _, _ => ⟨[], rfl⟩
  | [_], hlen, _ => by simp at hlen
  | h :: l :: rest, hlen, hall => by
    obtain ⟨hv, rfl⟩ := hall h (by simp)
    obtain ⟨lv, rfl⟩ := hall l (by simp)
    obtain ⟨x, rfl⟩ := exists_lineEncode_eq (y := rest) (by simp at hlen; omega) fun b hb => hall b (by simp [hb])
    exact ⟨joinNibbles hv lv :: x, by rw [lineEncode_cons, hi_join, lo_join]⟩

/-! ## The statements -/

/-- Settles O13: the list is an encoding, decodes to what it encodes, and the symbols of an encoding are known by
position. -/
theorem lineDecodeOfSymbols : Obligations.LineDecodeOfSymbols := by
  intro s hst ht heven hsym
  obtain ⟨x, hx⟩ := exists_lineEncode_eq heven hsym
  refine ⟨x, ?_, by rw [← hx, length_lineEncode], fun i b hb => ⟨?_, ?_⟩⟩
  · rw [exec_lineDec_idle hst, (lineDecode_eq_ok_iff ht).2 hx]
    rfl
  · rw [← hx, getElem?_lineEncode_even, hb]
    rfl
  · rw [← hx, getElem?_lineEncode_odd, hb]
    rfl

/-- Settles O15: the length is looked at before any byte (R176). -/
theorem lineDecodeOfOddLengthFails : Obligations.LineDecodeOfOddLengthFails := by
  intro s hst hodd
  rw [exec_lineDec_idle hst, lineDecode, if_pos hodd]
  rfl

/-- Settles O16: LINE_ENC leaves the unit in IDLE and the table as it is, so LINE_DEC undoes it. -/
theorem lineDecodeOfLineEncodeIsIdentity : Obligations.LineDecodeOfLineEncodeIsIdentity := by
  intro s t hst ht h
  cases (exec_lineEnc_idle hst).symm.trans h
  refine ⟨_, rfl, ?_⟩
  rw [exec_lineDec_idle, lineDecode_lineEncode]
  · rfl
  · exact ht
  · exact hst

/-- The result register tells success with `x` from everything else. -/
theorem bytesResult_eq_ok {r : Except Cause (List Byte)} {x : List Byte} :
    bytesResult r = .ok (.bytes x) ↔ r = .ok x := by
  cases r <;> simp [bytesResult]

/-- Settles O17: both next states are given, and they differ from the ones named in the result alone. -/
theorem lineDecodesExactlyTheEncodings : Obligations.LineDecodesExactlyTheEncodings := by
  intro s x hst ht
  rw [exec_lineDec_idle hst, exec_lineEnc_idle (s := { s with operand := x }) hst]
  simp [bytesResult_eq_ok, lineDecode_eq_ok_iff ht]

/-! ## The default table -/

/-- Settles O18: the table is closed, so each clause is a finite check over nibbles and bytes. -/
theorem defaultTableIsTheManchesterTable : Obligations.DefaultTableIsTheManchesterTable := by
  refine ⟨rfl, manchesterTable_admissible, ?_, by decide⟩
  intro v i hi
  revert v
  interval_cases i <;> decide

end Sys2Proof.Machine
end

section
/-! Bit positions in flattened lists and serial characters (20_memory.md R52, 43_serial_codec.md R191 to R196): where
each bit of a byte stands, and which positions the decoder reads. -/

namespace Sys2Proof.Machine

/-! ## Blocks of one length -/

/-- Position `j` of block `i`, when all blocks have `n` bits. -/
theorem getElem?_flatMap_block {f : Byte → List Bool} {n : Nat} (hf : ∀ b, (f b).length = n) {j : Nat} (hj : j < n) :
    ∀ {xs : List Byte} {i : Nat} {b : Byte}, xs[i]? = some b → (xs.flatMap f)[n * i + j]? = (f b)[j]?
  | [], _, _, h => nomatch h
  | x :: xs, 0, b, h => by
    obtain rfl : x = b := by simpa using h
    rw [List.flatMap_cons, Nat.mul_zero, Nat.zero_add, List.getElem?_append_left (by rw [hf]; exact hj)]
  | x :: xs, i + 1, b, h => by
    have hpos : n * (i + 1) + j = (f x).length + (n * i + j) := by rw [hf, Nat.mul_add_one]; omega
    rw [List.flatMap_cons, hpos, List.getElem?_append_right (Nat.le_add_right ..), Nat.add_sub_cancel_left]
    exact getElem?_flatMap_block hf hj (by simpa using h)

theorem length_flatMap_block {f : Byte → List Bool} {n : Nat} (hf : ∀ b, (f b).length = n) (xs : List Byte) :
    (xs.flatMap f).length = n * xs.length := by
  simp [List.length_flatMap, hf, Nat.mul_comm]

/-! ## Flattening -/

theorem getElem?_bitsLsb (b : Byte) {i : Nat} (hi : i < 8) : (bitsLsb b)[i]? = some (b.getLsbD i) := by
  simp [bitsLsb, hi]

theorem getElem?_bitsMsb (b : Byte) {j : Nat} (hj : j < 8) : (bitsMsb b)[j]? = some (b.getLsbD (7 - j)) := by
  rw [bitsMsb, List.getElem?_reverse (by simpa using hj), length_bitsLsb]
  exact getElem?_bitsLsb b (by omega)

/-- Settles O19: each byte is a block of 8 bits, bit 7 first. -/
theorem flattenIsMostSignificantBitFirst : Obligations.FlattenIsMostSignificantBitFirst := by
  refine ⟨fun xs i j b hb hj => ?_, pack_flatten, fun bits h => flatten_pack (k := bits.length / 8) (by omega)⟩
  rw [flatten, getElem?_flatMap_block length_bitsMsb hj hb, getElem?_bitsMsb b hj]

/-! ## Serial characters -/

theorem length_flatMap_serialChar (x : List Byte) : (x.flatMap serialChar).length = 10 * x.length :=
  length_flatMap_block length_serialChar x

/-- SER_ENC gives ceil(10 k / 8) bytes (43_serial_codec.md R193). -/
theorem length_serEncode (pad : Bool) (x : List Byte) : (serEncode pad x).length = (5 * x.length + 3) / 4 := by
  rw [serEncode, length_pack (length_fillToByte pad _), length_flatMap_serialChar]
  omega

/-- The bits of the characters come first, the fill bits after them (R192). -/
theorem getElem?_flatten_serEncode_of_lt (pad : Bool) {x : List Byte} {p : Nat} (hp : p < 10 * x.length) :
    (flatten (serEncode pad x))[p]? = (x.flatMap serialChar)[p]? := by
  rw [flatten_serEncode, fillToByte, List.getElem?_append_left]
  rwa [length_flatMap_serialChar]

theorem getElem?_flatten_serEncode_of_le (pad : Bool) {x : List Byte} {p : Nat} (hle : 10 * x.length ≤ p)
    (hlt : p < 8 * (serEncode pad x).length) : (flatten (serEncode pad x))[p]? = some pad := by
  rw [← length_flatten, flatten_serEncode, fillToByte, List.length_append, List.length_replicate] at hlt
  rw [← length_flatMap_serialChar] at hle
  rw [flatten_serEncode, fillToByte, List.getElem?_append_right hle, List.getElem?_replicate_of_lt (by omega)]

/-- Bit `j` of character `k` of an encoding is bit `j` of the character of byte `k`. -/
theorem getElem?_flatten_serEncode (pad : Bool) {x : List Byte} {k j : Nat} {b : Byte} (hb : x[k]? = some b)
    (hj : j < 10) : (flatten (serEncode pad x))[10 * k + j]? = (serialChar b)[j]? := by
  obtain ⟨hk, -⟩ := List.getElem?_eq_some_iff.1 hb
  rw [getElem?_flatten_serEncode_of_lt pad (by omega), getElem?_flatMap_block length_serialChar hj hb]

theorem getElem?_serialChar_data (b : Byte) {i : Nat} (hi : i < 8) : (serialChar b)[1 + i]? = some (b.getLsbD i) := by
  rw [serialChar, Nat.add_comm, List.getElem?_cons_succ, List.getElem?_append_left (by simpa using hi),
    getElem?_bitsLsb b hi]

/-- Settles O20: the characters are blocks of 10 bits, and what follows the last one is fill. -/
theorem serialEncodeFramesEachByte : Obligations.SerialEncodeFramesEachByte := by
  intro s hst
  refine ⟨_, exec_serEnc_idle hst, length_serEncode _ _, fun k b hb => ⟨?_, ?_, fun i hi => ?_⟩,
    fun p => getElem?_flatten_serEncode_of_le _⟩
  · exact getElem?_flatten_serEncode _ hb (j := 0) (by omega)
  · rw [getElem?_flatten_serEncode _ hb (by omega)]
    simp [serialChar]
  · rw [Nat.add_assoc, getElem?_flatten_serEncode _ hb (by omega), getElem?_serialChar_data b hi]

/-! ## Decoding -/

/-- The eight data bits of character `k` of a bit sequence (30_encoding.md R80). -/
def dataBits (bits : List Bool) (k : Nat) : List Bool := (bits.drop (10 * k + 1)).take 8

theorem getElem?_dataBits (bits : List Bool) (k : Nat) {i : Nat} (hi : i < 8) :
    (dataBits bits k)[i]? = bits[10 * k + 1 + i]? := by
  rw [dataBits, List.getElem?_take_of_lt hi, List.getElem?_drop]

/-- A complete character in front decodes to the byte of its data bits (43_serial_codec.md R194, R196). -/
theorem deframe_append {char : List Bool} (rest : List Bool) (h : char.length = 10) :
    deframe (char ++ rest) = byteOfBitsLsb ((char.drop 1).take 8) :: deframe rest := by
  match char, h with
  | [_, _, _, _, _, _, _, _, _, _], _ => rfl

/-- One byte for each complete character, that of its data bits (R194, R195). -/
theorem deframe_eq_map_dataBits : ∀ {n : Nat} {bits : List Bool}, bits.length / 10 = n →
    deframe bits = (List.range n).map fun k => byteOfBitsLsb (dataBits bits k)
  | 0, bits, h => deframe_short (by omega)
  | n + 1, bits, h => by
    have hchar : (bits.take 10).length = 10 := by rw [List.length_take]; omega
    have hrest : (bits.drop 10).length / 10 = n := by rw [List.length_drop]; omega
    conv_lhs => rw [← List.take_append_drop 10 bits]
    rw [deframe_append _ hchar, deframe_eq_map_dataBits hrest, List.range_succ_eq_map, List.map_cons, List.map_map]
    congr 1
    · rw [dataBits, List.drop_take, List.take_take]
      rfl
    · refine List.map_congr_left fun k _ => ?_
      rw [dataBits, List.drop_drop, Function.comp_apply, dataBits]
      congr 3
      omega

/-- SER_DEC gives floor(8 r / 10) bytes, each that of its data bits (R194, R195). -/
theorem serDecode_eq_map_dataBits (y : List Byte) :
    serDecode y = (List.range (4 * y.length / 5)).map fun k => byteOfBitsLsb (dataBits (flatten y) k) :=
  deframe_eq_map_dataBits (by rw [length_flatten]; omega)

/-- Settles O21: byte `k` is made of the data bits of character `k`. -/
theorem serialDecodeStripsEachCharacter : Obligations.SerialDecodeStripsEachCharacter := by
  intro s hst
  refine ⟨_, exec_serDec_idle hst, by simp [serDecode_eq_map_dataBits], fun k i b hb hi => ?_⟩
  rw [serDecode_eq_map_dataBits] at hb
  obtain ⟨hk, rfl⟩ : k < 4 * s.operand.length / 5 ∧ byteOfBitsLsb (dataBits (flatten s.operand) k) = b := by
    simpa [List.getElem?_eq_some_iff] using hb
  have hlt : 10 * k + 1 + i < (flatten s.operand).length := by rw [length_flatten]; omega
  rw [getLsbD_byteOfBitsLsb hi, List.getD_eq_getElem?_getD, getElem?_dataBits _ _ hi, List.getElem?_eq_getElem hlt]
  rfl

/-- Settles O22: two operands with the same data bits in every complete character decode to the same bytes. -/
theorem startAndStopBitsAreIgnored : Obligations.StartAndStopBitsAreIgnored := by
  intro s z hst hlen hbits
  have hsame : serDecode z = serDecode s.operand := by
    rw [serDecode_eq_map_dataBits, serDecode_eq_map_dataBits, hlen]
    refine List.map_congr_left fun k hk => congrArg byteOfBitsLsb (List.ext_getElem? fun i => ?_)
    rw [List.mem_range] at hk
    by_cases hi : i < 8
    · rw [getElem?_dataBits _ _ hi, getElem?_dataBits _ _ hi, hbits k i (by omega) hi]
    · rw [List.getElem?_eq_none, List.getElem?_eq_none] <;> simp [dataBits] <;> omega
  refine ⟨_, exec_serDec_idle hst, ?_⟩
  rw [exec_serDec_idle, hsame]
  exact hst

end Sys2Proof.Machine
end

section
/-! The frame decoder (41_frame_decoder.md): the trailer bytes and the payload of a list written out as a frame, the
marker search, and the result of each strategy on every operand. -/

namespace Sys2Proof.Machine

/-! ## The trailer -/

theorem rssiByte_append (p : List Byte) (r q : Byte) : rssiByte (p ++ [r, q]) = r := by
  simp [rssiByte, byteAt]

theorem lqiByte_append (p : List Byte) (r q : Byte) : lqiByte (p ++ [r, q]) = q := by
  simp [lqiByte, byteAt]

theorem slice_payload (a p : List Byte) (r q : Byte) :
    slice (a ++ (p ++ [r, q])) a.length ((a ++ (p ++ [r, q])).length - 2) = p := by
  simp [slice, ← List.append_assoc]

/-- The signal strength is half the signed byte, rounded down, minus 74 (R150, decision D31). -/
theorem rssiDbm_eq (v : Byte) : rssiDbm v = v.toInt / 2 - 74 := by
  revert v; decide

theorem linkQuality_eq (b : Byte) : linkQuality b = b.extractLsb' 0 7 := by
  revert b; decide

/-- Settles O24. -/
theorem signalStrengthIsFloorOfHalf : Obligations.SignalStrengthIsFloorOfHalf :=
  ⟨fun v => ⟨rssiDbm_eq v, rssiDbm_range v⟩, by decide, by decide⟩

theorem checkCrc_append_of_set {p : List Byte} {r q : Byte} (f : DecodedFrame) (hq : q.getLsbD 7 = true) :
    checkCrc (p ++ [r, q]) f = .ok f := by
  rw [checkCrc, lqiByte_append, crcFlag, if_pos hq]

theorem checkCrc_append_of_clear {p : List Byte} {r q : Byte} (f : DecodedFrame) (hq : q.getLsbD 7 = false) :
    checkCrc (p ++ [r, q]) f = .error .crcError := by
  rw [checkCrc, lqiByte_append, crcFlag, hq, if_neg Bool.false_ne_true]

/-! ## The two strategies without a marker -/

theorem exec_fdecAddr_of {s : State} {r : Except Cause DecodedFrame} (h : s.st = .idle)
    (hr : decodeAddr s.operand = r) : exec .fdecAddr s = .next { s with trace := [], res := frameResult r } :=
  hr ▸ operate_idle h

theorem exec_fdecRaw_of {s : State} {r : Except Cause DecodedFrame} (h : s.st = .idle)
    (hr : decodeRaw s.operand = r) : exec .fdecRaw s = .next { s with trace := [], res := frameResult r } :=
  hr ▸ operate_idle h

theorem exec_fdecLine_of {s : State} {r : Except Cause DecodedFrame} (h : s.st = .idle)
    (hr : decodeLine s.lineTable s.operand = r) :
    exec .fdecLine s = .next { s with trace := [], res := frameResult r } :=
  hr ▸ operate_idle h

theorem decodeAddr_short {raw : List Byte} (h : raw.length < 4) : decodeAddr raw = .error .invalidLength := if_pos h

/-- FDEC_ADDR of a list long enough, field by field (R143). -/
theorem decodeAddr_frame (dest src : Byte) (p : List Byte) (r q : Byte) :
    decodeAddr ([dest, src] ++ p ++ [r, q]) = checkCrc ([dest, src] ++ p ++ [r, q])
      { payload := p, srcAddress := src, destAddress := dest, rssiDbm := r.toInt / 2 - 74,
        linkQuality := q.extractLsb' 0 7, crcOk := true } := by
  have hlen : ¬([dest, src] ++ p ++ [r, q]).length < minAddr := by simp [minAddr]
  have hslice := slice_payload [dest, src] p r q
  rw [← List.append_assoc] at hslice
  rw [decodeAddr, if_neg hlen, rssiByte_append, lqiByte_append, rssiDbm_eq, linkQuality_eq]
  exact congrArg _ (congrArg (DecodedFrame.mk · ..) hslice)

theorem decodeRaw_short {raw : List Byte} (h : raw.length < 2) : decodeRaw raw = .error .invalidLength := if_pos h

/-- FDEC_RAW of a list long enough (R144). -/
theorem decodeRaw_frame (p : List Byte) (r q : Byte) :
    decodeRaw (p ++ [r, q]) = checkCrc (p ++ [r, q])
      { payload := p, srcAddress := 0, destAddress := 0, rssiDbm := 0, linkQuality := 0, crcOk := true } := by
  rw [decodeRaw, if_neg (by simp [minRaw])]
  exact congrArg _ (congrArg (DecodedFrame.mk · ..) (slice_payload [] p r q))

/-- Settles O25: the length is looked at first, the CRC flag last. -/
theorem addressedFrameResult : Obligations.AddressedFrameResult := by
  intro s hst
  refine ⟨fun hlen => exec_fdecAddr_of hst (decodeAddr_short hlen), fun dest src p r q hop => ?_⟩
  have hframe := (congrArg decodeAddr hop).trans (decodeAddr_frame dest src p r q)
  exact ⟨fun hq => exec_fdecAddr_of hst (hframe.trans (checkCrc_append_of_clear _ hq)),
    fun hq => exec_fdecAddr_of hst (hframe.trans (checkCrc_append_of_set _ hq))⟩

/-- Settles O26: as for FDEC_ADDR, with two bytes fewer and zeros for what raw mode does not report. -/
theorem rawFrameResult : Obligations.RawFrameResult := by
  intro s hst
  refine ⟨fun hlen => exec_fdecRaw_of hst (decodeRaw_short hlen), fun p r q hop => ?_⟩
  have hframe := (congrArg decodeRaw hop).trans (decodeRaw_frame p r q)
  exact ⟨fun hq => exec_fdecRaw_of hst (hframe.trans (checkCrc_append_of_clear _ hq)),
    fun hq => exec_fdecRaw_of hst (hframe.trans (checkCrc_append_of_set _ hq))⟩

/-! ## The marker -/

theorem byteAt_append_left {xs ys : List Byte} {i : Nat} (h : i < xs.length) : byteAt (xs ++ ys) i = byteAt xs i :=
  List.getD_append _ _ _ _ h

theorem byteAt_append_cons (xs : List Byte) (b : Byte) (ys : List Byte) : byteAt (xs ++ b :: ys) xs.length = b := by
  simp [byteAt]

theorem byteAt_mem {xs : List Byte} {i : Nat} (h : i < xs.length) : byteAt xs i ∈ xs := by
  rw [byteAt, List.getD_eq_getElem _ _ h]
  exact List.getElem_mem h

/-- Behind the preamble a list holds what its body holds (R145). -/
theorem byteAt_preamble_append_mem {body rest : List Byte} {i : Nat} (h3 : 3 ≤ i)
    (hi : i < (Config.preamble ++ body).length) : byteAt (Config.preamble ++ body ++ rest) i ∈ body := by
  have hlen : (Config.preamble ++ body).length = 3 + body.length := List.length_append
  obtain ⟨j, rfl⟩ := Nat.exists_eq_add_of_le h3
  rw [byteAt_append_left hi, byteAt, List.getD_append_right _ _ _ _ (Nat.le_add_right 3 j),
    show 3 + j - Config.preamble.length = j from Nat.add_sub_cancel_left ..]
  exact byteAt_mem (by omega)

/-- No byte of a body without markers stops the search. -/
theorem not_marker_at {body rest : List Byte} (hno : Config.marker ∉ body) {j : Nat}
    (hj : j < (Config.preamble ++ body).length) :
    (!(decide (3 ≤ j) && byteAt (Config.preamble ++ body ++ rest) j == Config.marker)) = true := by
  by_cases h3 : 3 ≤ j
  · have hne : byteAt (Config.preamble ++ body ++ rest) j ≠ Config.marker := fun h =>
      hno (h ▸ byteAt_preamble_append_mem h3 hj)
    rw [beq_eq_false_iff_ne.2 hne, Bool.and_false]
    rfl
  · simp [h3]

/-- The marker search stops at the first marker behind the preamble, whatever follows (R146). -/
theorem findMarker_of_marker {region rest : List Byte} (hno : Config.marker ∉ region) (hrest : 2 ≤ rest.length) :
    findMarker (Config.preamble ++ region ++ Config.marker :: rest) = some (Config.preamble ++ region).length := by
  refine List.find?_range_eq_some.2 ⟨?_, ?_, fun j hj => not_marker_at hno hj⟩
  · rw [byteAt_append_cons, beq_self_eq_true, Bool.and_true, decide_eq_true_eq]
    exact List.length_append.symm ▸ Nat.le_add_right 3 _
  · rw [List.mem_range, List.length_append (bs := _ :: _), List.length_cons]
    omega

/-- With no marker before the trailer the search finds none (R146). -/
theorem findMarker_eq_none {body : List Byte} (r q : Byte) (hno : Config.marker ∉ body) :
    findMarker (Config.preamble ++ body ++ [r, q]) = none :=
  List.find?_range_eq_none.2 fun _ hj => not_marker_at hno (by rwa [List.length_append (bs := [r, q])] at hj)

/-! ## The strategy with a marker -/

theorem decodeLine_short {t : Vector Byte 16} {raw : List Byte} (h : raw.length < 5) :
    decodeLine t raw = .error .invalidLength := if_pos h

theorem decodeLine_of_other_preamble {t : Vector Byte 16} {raw : List Byte} (hlen : 5 ≤ raw.length)
    (h : raw.take 3 ≠ Config.preamble) : decodeLine t raw = .error .headerMismatch := by
  have hge : ¬raw.length < minLine := Nat.not_lt.2 hlen
  rw [decodeLine, if_neg hge]
  exact if_pos h

section
variable {t : Vector Byte 16} {raw : List Byte} (hlen : 5 ≤ raw.length) (hpre : raw.take 3 = Config.preamble)
include hlen hpre

theorem decodeLine_of_no_marker (hm : findMarker raw = none) : decodeLine t raw = .error .markerNotFound := by
  have hge : ¬raw.length < minLine := Nat.not_lt.2 hlen
  have hsame : ¬slice raw 0 3 ≠ Config.preamble := not_not.2 hpre
  simp only [decodeLine, if_neg hge, if_neg hsame, hm]

theorem decodeLine_of_pipeline_error {m : Nat} {e : Cause} (hm : findMarker raw = some m)
    (he : linePipeline t (slice raw 3 m) = .error e) : decodeLine t raw = .error e := by
  have hge : ¬raw.length < minLine := Nat.not_lt.2 hlen
  have hsame : ¬slice raw 0 3 ≠ Config.preamble := not_not.2 hpre
  simp only [decodeLine, if_neg hge, if_neg hsame, hm, he]

/-- When the pipeline gives a payload only the CRC flag is left to check (R151). -/
theorem decodeLine_of_payload {m : Nat} {p : List Byte} (hm : findMarker raw = some m)
    (hp : linePipeline t (slice raw 3 m) = .ok p) :
    decodeLine t raw = checkCrc raw
      { payload := p, srcAddress := 0, destAddress := 0, rssiDbm := (rssiByte raw).toInt / 2 - 74,
        linkQuality := (lqiByte raw).extractLsb' 0 7, crcOk := true } := by
  have hge : ¬raw.length < minLine := Nat.not_lt.2 hlen
  have hsame : ¬slice raw 0 3 ≠ Config.preamble := not_not.2 hpre
  simp only [decodeLine, if_neg hge, if_neg hsame, hm, hp, rssiDbm_eq, linkQuality_eq]

end

/-- A list laid out for FDEC_LINE: preamble, region, marker, bytes that are ignored, trailer (R145). -/
abbrev lineFrame (region junk : List Byte) (r q : Byte) : List Byte :=
  [0x33, 0x55, 0x53] ++ region ++ [0x35] ++ junk ++ [r, q]

theorem length_lineFrame (region junk : List Byte) (r q : Byte) : 5 ≤ (lineFrame region junk r q).length := by
  simp
  omega

theorem take_lineFrame (region junk : List Byte) (r q : Byte) :
    (lineFrame region junk r q).take 3 = Config.preamble := rfl

theorem findMarker_lineFrame {region : List Byte} (junk : List Byte) (r q : Byte) (hno : Config.marker ∉ region) :
    findMarker (lineFrame region junk r q) = some (3 + region.length) := by
  have h := findMarker_of_marker (rest := junk ++ [r, q]) hno (by simp)
  rw [List.length_append (as := Config.preamble)] at h
  simpa [lineFrame, Config.preamble, Config.marker] using h

theorem slice_lineFrame (region junk : List Byte) (r q : Byte) :
    slice (lineFrame region junk r q) 3 (3 + region.length) = region := by
  simp [slice, lineFrame, Nat.add_comm 3]

section
variable {t : Vector Byte 16} {region junk : List Byte} {r q : Byte} (hno : Config.marker ∉ region)
include hno

theorem decodeLine_lineFrame_of_error {e : Cause} (h : lineDecode t (serDecode region) = .error e) :
    decodeLine t (lineFrame region junk r q) = .error e :=
  decodeLine_of_pipeline_error (length_lineFrame ..) (take_lineFrame ..) (findMarker_lineFrame junk r q hno)
    (by rw [slice_lineFrame]; exact h)

theorem decodeLine_lineFrame_of_ok {p : List Byte} (h : lineDecode t (serDecode region) = .ok p) :
    decodeLine t (lineFrame region junk r q) = checkCrc (lineFrame region junk r q)
      { payload := p, srcAddress := 0, destAddress := 0, rssiDbm := r.toInt / 2 - 74,
        linkQuality := q.extractLsb' 0 7, crcOk := true } := by
  rw [decodeLine_of_payload (length_lineFrame ..) (take_lineFrame ..) (findMarker_lineFrame junk r q hno)
    (by rw [slice_lineFrame]; exact h), rssiByte_append, lqiByte_append]

end

/-- Settles O27: the search finds the marker that follows the region, and the region goes through the pipeline before
the CRC flag is looked at. -/
theorem encodedLineFrameResult : Obligations.EncodedLineFrameResult := by
  intro s region junk r q hst hno hop
  refine ⟨fun e he => ?_, fun p hp hq => ?_, fun p hp hq => ?_⟩
  · exact exec_fdecLine_of hst ((congrArg _ hop).trans (decodeLine_lineFrame_of_error hno he))
  · exact exec_fdecLine_of hst ((congrArg _ hop).trans
      ((decodeLine_lineFrame_of_ok hno hp).trans (checkCrc_append_of_clear _ hq)))
  · exact exec_fdecLine_of hst ((congrArg _ hop).trans
      ((decodeLine_lineFrame_of_ok hno hp).trans (checkCrc_append_of_set _ hq)))

/-- Settles O28: length, preamble and marker are looked at in this order. -/
theorem encodedLineFrameErrors : Obligations.EncodedLineFrameErrors := by
  intro s hst
  refine ⟨fun hlen => exec_fdecLine_of hst (decodeLine_short hlen),
    fun hlen hpre => exec_fdecLine_of hst (decodeLine_of_other_preamble hlen hpre), fun body r q hno hop => ?_⟩
  exact exec_fdecLine_of hst ((congrArg _ hop).trans
    (decodeLine_of_no_marker (by simp) rfl (findMarker_eq_none r q hno)))

/-- Settles O29: the pipeline undoes the two encodings, and a payload of `j` bytes has `2 j` symbols, `20 j` bits. -/
theorem encodedPayloadIsRecovered : Obligations.EncodedPayloadIsRecovered := by
  intro s p junk r q hst ht hno hq hop
  refine ⟨by rw [length_serEncode, length_lineEncode]; omega, ?_⟩
  obtain ⟨-, -, hset⟩ := encodedLineFrameResult s _ junk r q hst hno hop
  exact hset p (by rw [serDecode_serEncode, lineDecode_lineEncode ht]) hq

end Sys2Proof.Machine
end

section
/-! The command words (30_encoding.md R85 to R87), the codes (60_exceptions.md R221), and what a step does with the
caller's next request. -/

namespace Sys2Proof.Machine

/-! ## Command words -/

/-- Settles O1. -/
theorem commandWordsDecodeAsTheTable : Obligations.CommandWordsDecodeAsTheTable := by
  refine ⟨?_, ?_, ?_, ?_, ?_, ?_, ?_, ?_, ?_⟩ <;> decide

/-- Settles O2: for each operation the check runs over the 256 words. -/
theorem decodeIsInverseOfEncode : Obligations.DecodeIsInverseOfEncode := by
  intro i w
  cases i <;> revert w <;> decide

/-- A word that is no operation's has no row of the table (R87). -/
theorem decode_of_reserved {w : Byte} (h : ∀ i, w ≠ encode i) : decode w = .error (.reservedCommand w) := by
  cases hd : decode w with
  | ok i => exact absurd ((decodeIsInverseOfEncode i w).1 hd) (h i)
  | error e =>
    unfold decode at hd
    split at hd <;> cases hd
    rfl

/-- Settles O3: the words are counted, and a step at a reserved word never reaches an operation. -/
theorem reservedWordsAreRefused : Obligations.ReservedWordsAreRefused := by
  refine ⟨by decide +kernel, fun w x tm rest s hw hr hreq => ?_⟩
  simp [step, nextAction, hr, hreq, decode_of_reserved hw]

/-! ## Codes -/

/-- Settles O4: results, states, outcomes and causes are finitely many names. -/
theorem codesAreTheSpecsNumbers : Obligations.CodesAreTheSpecsNumbers := by
  refine ⟨fun _ => rfl, by decide, fun r => ?_, by decide, by decide, fun e => ?_, fun e => ?_⟩
  · cases r with
    | ok v => exact Nat.zero_le _
    | err e => cases e <;> decide
  · cases e <;> decide
  · cases e <;> decide

/-! ## Requests -/

/-- Settles O5. -/
theorem stepRunsTheIssuedCommand : Obligations.StepRunsTheIssuedCommand :=
  fun _ _ _ _ _ _ hr hreq hd => step_command hr hreq hd

/-- Only code 3 has no strategy (10_state.md R24). -/
theorem strategyOfCode_cases (k : BitVec 2) (hk : k ≠ 3) :
    ∃ g, strategyOfCode k = some g ∧ (k = 0 → g = .addressed) ∧ (k = 1 → g = .raw) ∧ (k = 2 → g = .encodedLine) := by
  revert k
  decide

/-- Settles O44: the refusals in their order, then the record with its defaults. -/
theorem configurationWrite : Obligations.ConfigurationWrite := by
  intro s w rest hr hreq
  rw [step_configure hr hreq]
  refine ⟨fun hset => if_pos hset, fun hnone hv => ?_, fun hnone hv hk => ?_, fun hnone hv hk hb => ?_,
    fun hnone hv hk hb => ?_⟩
  all_goals have hn : ¬({ s with requests := rest } : State).cfg ≠ none := not_not.2 hnone
  · rw [configure, if_neg hn, if_pos hv]
  · rw [configure, if_neg hn, if_neg (not_not.2 hv), hk]
    rfl
  · obtain ⟨g, hg, -⟩ := strategyOfCode_cases _ hk
    simp [configure, hnone, hv, hg, cfgOf, hb]
  · obtain ⟨g, hg, h0, h1, h2⟩ := strategyOfCode_cases _ hk
    refine ⟨cfgOf g w, ?_, h0, h1, h2, rfl, rfl, rfl, rfl, rfl⟩
    have hbudget : (cfgOf g w).emptyBudget ≠ 0 := by
      cases hw : w.emptyBudget with
      | none => simp [cfgOf, hw, Config.emptyBudgetDefault]
      | some b => simpa [cfgOf, hw] using hb
    simp only [configure, if_neg hn, if_neg (not_not.2 hv), hg, if_neg hbudget]

/-! ## States in which no operation starts -/

/-- Settles O41: every operation is run by `operate` or refused for want of a configuration, and both refuse in FAULT.
-/
theorem faultIsNeverLeft : Obligations.FaultIsNeverLeft := by
  intro s hst
  have hrefused : ∀ i (u : State), u.st = .fault → exec i u = .refused .dead := fun i u hu => by
    by_cases h : i = .receive → u.cfg ≠ none
    · rw [exec_eq_operate h, operate_fault hu]
    · push Not at h
      obtain ⟨rfl, hc⟩ := h
      exact (execReceive_of_cfg_none hc).trans (by rw [if_pos hu])
  refine ⟨fun i => hrefused i s hst, fun t h => ?_⟩
  rcases step_cases h with ⟨hr, -⟩ | ⟨-, -, rfl⟩ | ⟨-, w, rest, -, hw⟩ | ⟨-, word, x, tm, rest, i, -, -, hi⟩
  · rw [hst] at hr
    cases hr
  · exact ⟨hst, rfl⟩
  · obtain ⟨-, -, g, -, -, rfl⟩ := configure_cases hw
    exact ⟨hst, rfl⟩
  · cases (hrefused i (takeCommand rest x tm s) hst).symm.trans hi

/-- Settles O42. -/
theorem concurrentOperationsAreRefused : Obligations.ConcurrentOperationsAreRefused :=
  fun _ _ hr hcfg => (exec_eq_operate hcfg).trans (operate_busy hr)

/-- Settles O43: only RECEIVE reads the configuration before it runs. -/
theorem onlyReceiveNeedsTheConfiguration : Obligations.OnlyReceiveNeedsTheConfiguration := by
  intro s hst hc
  refine ⟨(execReceive_of_cfg_none hc).trans (by simp [hst]), fun i hi => ?_⟩
  rw [exec_eq_operate fun h => absurd h hi, operate_idle hst]
  rfl

/-- Settles O11: from IDLE the operation writes its result; in another state it answers no next state. -/
theorem pureOperationsChangeOnlyTheResult : Obligations.PureOperationsChangeOnlyTheResult := by
  intro i s hi
  have hne : i = .receive → s.cfg ≠ none := fun h => by
    subst h
    cases hi
  obtain ⟨r, -, hbody⟩ := opBody_of_pureOp hi (beginOp s)
  refine ⟨fun hst => ?_, fun t h => ?_⟩
  · rw [exec_eq_operate hne, operate_idle hst]
    rfl
  · obtain ⟨-, -, rfl⟩ := exec_eq_next h
    rw [hbody]
    exact ⟨rfl, fun _ => rfl⟩

/-- Settles O32. -/
theorem receiveStartsAfresh : Obligations.ReceiveStartsAfresh :=
  fun _ _ hst hc => ⟨exec_receive_idle hst hc, fun _ => rfl⟩

/-! ## WAIT -/

theorem nextWake_of_cons {s : State} {w : Wake} {more : List Wake} (h : s.wakes = w :: more) : nextWake s = w := by
  simp [nextWake, h]

/-- From IDLE WAIT forgets the latched edge, meets the next wake and reports by priority (44_wait.md R210, R213). -/
theorem exec_wait_idle {s : State} (hst : s.st = .idle) :
    exec .wait s = .next
      { s with
        trace := []
        irqLatched := (nextWake s).edge
        cancelReady := (nextWake s).cancel.getD s.cancelReady
        wakes := s.wakes.tail
        draws := s.draws + 1
        res := .ok (.outcome
          (if (nextWake s).cancel.getD s.cancelReady = true then .cancelled
            else if (nextWake s).edge = true then .dataReady else .timeout)) } :=
  operate_idle hst

/-- Settles O31: the dummy read clears the edge before anything else is looked at. -/
theorem waitReportsByPriority : Obligations.WaitReportsByPriority := by
  refine ⟨fun s hst => ⟨nextWake s, fun w' more h => nextWake_of_cons h, exec_wait_idle hst⟩, fun s edge => ?_⟩
  show operate waitBody _ = operate waitBody s
  unfold operate
  rfl

end Sys2Proof.Machine
end

section
/-! The single transitions of RECEIVE (40_fifo_drain.md R102 to R123) with the radio's answer in hand, and what a
transition does not look at: requests and handles, and where an answer comes from. -/

namespace Sys2Proof.Machine

/-! ## HDR -/

/-- An answer that carries at least the one byte asked for gives it (20_memory.md R45). -/
theorem burstData_one_cons (draw : Nat) (b : Byte) (data : List Byte) : burstData 1 draw (b :: data) = [b] := rfl

theorem drainHdr_of_answers {c : Cfg} {s : State} {s0 : Byte} {data : List Byte}
    (h : nextAnswer s = .answers s0 data) :
    drainHdr c s = afterHeader s0 (headed c s0 (burstData 1 s.draws data) s) := by
  simp only [drainHdr, busBurstRead, h]

theorem afterHeader_of_zero {s0 : Byte} {s : State} (h : s.len = 0) :
    afterHeader s0 s = raisePending .invalidLength s := if_pos h

theorem afterHeader_of_overflow {s0 : Byte} {s : State} (h : s.len ≠ 0) (ho : s0 ∈ s.hdrOvfBytes) :
    afterHeader s0 s = raisePending .overflow s :=
  (if_neg h).trans (if_pos (decide_eq_true ho))

theorem afterHeader_of_target {s0 : Byte} {s : State} (h : s.len ≠ 0) (ho : s0 ∉ s.hdrOvfBytes) :
    afterHeader s0 s = { s with tgt := s.len.toNat + 2, st := .query } :=
  (if_neg h).trans (if_neg fun hin => ho (of_decide_eq_true hin))

/-- Settles O33: the zero test comes first, then HDR_OVF. -/
theorem headerTransition : Obligations.HeaderTransition := by
  intro s c s0 b data rest hst hc hbus u hu
  have hstep : step s = .next (afterHeader s0 u) := by
    rw [step_hdr hst hc, drainHdr_of_answers (nextAnswer_cons hbus), burstData_one_cons, hu]
    simp [headed, record, answerTaken, hbus, byteAt]
  have hlen : u.len = b := by rw [hu]
  have hovf : u.hdrOvfBytes = s.hdrOvfBytes := by rw [hu]
  rw [hstep, ← hlen, ← hovf]
  refine ⟨fun hz => ?_, fun hz ho => ?_, fun hz ho => ?_⟩
  · rw [afterHeader_of_zero hz]
    rfl
  · rw [afterHeader_of_overflow hz ho]
    rfl
  · rw [afterHeader_of_target hz ho]

/-! ## QUERY -/

theorem statusCount_eq (b : Byte) : statusCount b = (b.extractLsb' 0 7).toNat := by
  revert b; decide

theorem afterStatus_of_spent {c : Cfg} {b : Byte} {s : State} (ho : ovfFlag b = false) (h0 : statusCount b = 0)
    (h : c.emptyBudget.toNat ≤ s.empty + 1) :
    afterStatus c b s = raisePending .receiveTimeout { s with avail := 0, empty := s.empty + 1 } := by
  simp [afterStatus, ho, h0, emptyObservation, h]

theorem afterStatus_of_left {c : Cfg} {b : Byte} {s : State} (ho : ovfFlag b = false) (h0 : statusCount b = 0)
    (h : s.empty + 1 < c.emptyBudget.toNat) :
    afterStatus c b s = { s with avail := 0, empty := s.empty + 1, st := .pauseE } := by
  simp [afterStatus, ho, h0, emptyObservation, Nat.not_le.2 h]

theorem afterStatus_of_garbage {c : Cfg} {b : Byte} {s : State} (ho : ovfFlag b = false) (h : 64 < statusCount b) :
    afterStatus c b s = { s with avail := statusCount b } := by
  have h0 : statusCount b ≠ 0 := by omega
  simp [afterStatus, ho, h0, Config.fifoCapacity, h]

/-- Settles O34: the six cases of a status byte, in the order of R123. -/
theorem queryTransition : Obligations.QueryTransition := by
  rintro s c b data rest a hst hc hbus rfl u hu
  have hstep : step s = .next (afterStatus c b u) := by
    rw [step_query_of_answers hst hc (nextAnswer_cons hbus), hu]
    simp [record, answerTaken, hbus]
  have hempty : u.empty = s.empty := by rw [hu]
  have hcur : u.cur = s.cur := by rw [hu]
  have htgt : u.tgt = s.tgt := by rw [hu]
  rw [hstep, ← statusCount_eq, ← hempty, ← hcur, ← htgt]
  refine ⟨fun ho => ?_, fun ho h0 hb => ?_, fun ho h0 hb => ?_, fun ho hg => ?_, fun ho h1 h64 hge => ?_,
    fun ho h1 h64 hlt => ?_⟩
  · rw [afterStatus_of_overflow ho]
    rfl
  · rw [afterStatus_of_spent ho h0 hb]
    rfl
  · rw [afterStatus_of_left ho h0 hb]
  · rw [afterStatus_of_garbage ho hg]
  · rw [afterStatus_of_complete ho h1 h64 hge]
  · rw [afterStatus_of_partial ho h1 h64 hlt]

/-! ## QUERY with a truthful status -/

/-- A status byte that leads to READ has no overflow bit and shows at least the bytes that READ will ask for (R112).
-/
theorem n_le_of_afterStatus_read {c : Cfg} {b : Byte} {s : State} (hst : s.st = .query)
    (h : (afterStatus c b s).st = .read) : ovfFlag b = false ∧ (afterStatus c b s).n ≤ statusCount b := by
  rcases afterStatus_cases c b s with ⟨-, e⟩ | ⟨-, -, -, e⟩ | ⟨-, -, -, e⟩ | ⟨-, -, e⟩ | ⟨ho, -, -, -, e⟩ |
    ⟨ho, -, -, -, e⟩ <;> rw [e] at h ⊢
  · cases h
  · cases h
  · cases h
  · cases hst.symm.trans h
  · exact ⟨ho, Nat.le_refl _⟩
  · exact ⟨ho, Nat.sub_le ..⟩

/-- Without the overflow bit the count is the whole byte (30_encoding.md R72). -/
theorem statusCount_of_no_overflow (b : Byte) : ovfFlag b = false → statusCount b = b.toNat ∧ b.toNat < 128 := by
  revert b; decide

/-- A truthful status byte without the overflow bit shows the length of the queue (20_memory.md R62). -/
theorem statusCount_refStatus {e : RefEnv} (hlen : e.q.length ≤ 64) (ho : ovfFlag (refStatus e) = false) :
    statusCount (refStatus e) = e.q.length := by
  obtain ⟨hcount, hlt⟩ := statusCount_of_no_overflow _ ho
  have hval : (refStatus e).toNat = (e.o.toNat * 128 + e.q.length) % 2 ^ 8 := BitVec.toNat_ofNat ..
  have hbit : e.o.toNat = 0 ∨ e.o.toNat = 1 := by cases e.o <;> decide
  omega

theorem length_le_refArrivals (k : Nat) : ∀ e : RefEnv, e.q.length ≤ (refArrivals k e).q.length := by
  induction k with
  | zero => exact fun e => Nat.le_refl _
  | succ k ih =>
    refine fun e => Nat.le_trans ?_ (ih (refArrive e))
    unfold refArrive
    split
    · exact Nat.le_refl _
    split
    · exact Nat.le_refl _
    · simp

/-- Settles O58: the status byte shows the bytes held, no chunk is longer, and arrivals only add bytes. -/
theorem truthfulStatusNeverUnderflows : Obligations.TruthfulStatusNeverUnderflows := by
  intro s t e data rest k hst hset hlen hbus h ht
  obtain ⟨c, hc⟩ := Option.ne_none_iff_exists'.1 hset
  cases (step_query_of_answers hst hc (nextAnswer_cons hbus)).symm.trans h
  obtain ⟨ho, hn⟩ := n_le_of_afterStatus_read (s := observed c (refStatus e) s) hst ht
  exact Nat.le_trans (statusCount_refStatus hlen ho ▸ hn) (length_le_refArrivals k e)

/-! ## READ -/

theorem drainRead_of_nothing {c : Cfg} {s : State} (hn : s.n = 0) : drainRead c s = .next (afterChunk s) := if_pos hn

theorem drainRead_of_fails {c : Cfg} {s : State} (hn : s.n ≠ 0) (ha : nextAnswer s = .fails) :
    drainRead c s = .next (busFaultEntry (record .fault (answerTaken s))) := by
  simp only [drainRead, if_neg hn, busBurstRead, ha]

/-- A burst read that is answered is appended when it fits the buffer (R115). -/
theorem drainRead_of_answers {c : Cfg} {s : State} {b : Byte} {data : List Byte} (hn : s.n ≠ 0)
    (ha : nextAnswer s = .answers b data) :
    drainRead c s =
      if s.cur + s.n ≤ Config.bufCap then .next (afterChunk (appended c b (burstData s.n s.draws data) s))
      else .fault (.bufOutOfRange (s.cur + s.n - 1)) := by
  by_cases hfit : s.cur + s.n ≤ Config.bufCap <;>
    simp [drainRead, hn, busBurstRead, ha, appendChunk, memWrite, hfit, appended]

theorem step_read_of_nothing {s : State} {c : Cfg} (hst : s.st = .read) (hc : s.cfg = some c) (hn : s.n = 0) :
    step s = .next (afterChunk s) :=
  (step_read hst hc).trans (drainRead_of_nothing hn)

/-- Settles O36: the burst read returns the bytes of the answer, and the buffer's laws give what stands where. -/
theorem readTransition : Obligations.ReadTransition := by
  intro s c hst hc
  refine ⟨step_read_of_nothing hst hc, fun b data rest hn hbus hlen hfit => ?_⟩
  have hstep := step_read_of_answers hst hc hn (nextAnswer_cons hbus) hfit
  rw [burstData_eq hlen] at hstep
  refine ⟨_, hstep, by simp [afterChunk, record, answerTaken, hbus], fun i d hd => ?_, fun a ha => ?_, wf_writeBytes⟩
  · obtain ⟨hi, rfl⟩ := List.getElem?_eq_some_iff.1 hd
    exact read_writeBytes_inside hi
  · exact read_writeBytes_outside (by omega)

/-! ## The pauses, FLUSH, DONE -/

/-- Settles O37. -/
theorem pauseTransition : Obligations.PauseTransition :=
  fun _ _ hst hc => step_pause hst hc

/-- Settles O38. -/
theorem flushTransition : Obligations.FlushTransition := by
  intro s c b data rest hst hc hbus
  rw [step_flush_of_answers hst hc (nextAnswer_cons hbus)]
  simp [record, answerTaken, hbus]

/-- Bytes that are there one by one are read as a list (20_memory.md R41). -/
theorem readBytes_of_read {m : Memory} : ∀ {bs : List Byte} {a : Nat},
    (∀ i, i < bs.length → m.read (a + i) = bs[i]?) → m.readBytes a bs.length = .ok bs
  | [], _, _ => rfl
  | b :: bs, a, h => by
    have hhead : m.read a = some b := h 0 (by simp)
    have htail : m.readBytes (a + 1) bs.length = .ok bs := readBytes_of_read fun i hi => by
      have := h (i + 1) (by simpa using hi)
      rwa [show a + 1 + i = a + (i + 1) by omega]
    simp only [List.length_cons, Memory.readBytes, hhead, htail]

/-- Settles O39: every byte below `cur` has a value, so the read gives them all. -/
theorem doneTransition : Obligations.DoneTransition := by
  intro s c bs hst hc hlen hread
  have hbytes : s.buf.readBytes 0 s.cur = .ok bs :=
    hlen ▸ readBytes_of_read fun i hi => by rw [Nat.zero_add]; exact hread i (hlen ▸ hi)
  exact (step_done hst hc).trans (drainDone_ok hbytes)

/-! ## A failed primitive -/

/-- The states whose transition takes an answer of the radio. -/
abbrev TakesAnswer (s : State) : Prop := s.st = .hdr ∨ s.st = .query ∨ s.st = .flush ∨ s.st = .read ∧ s.n ≠ 0

/-- Whatever primitive is due, when it fails the entry for `BusFault` follows (40_fifo_drain.md R122). -/
theorem step_of_fails {s : State} {c : Cfg} (hc : s.cfg = some c) (hst : TakesAnswer s) (ha : nextAnswer s = .fails) :
    step s = .next (busFaultEntry (record .fault (answerTaken s))) := by
  rcases hst with hst | hst | hst | ⟨hst, hn⟩
  · rw [step_hdr hst hc]
    simp only [drainHdr, busBurstRead, ha]
  · rw [step_query hst hc]
    simp only [drainQuery, busStatus, ha]
  · rw [step_flush hst hc]
    simp only [flushEntry, busStrobe, ha]
  · rw [step_read hst hc]
    exact drainRead_of_fails hn ha

/-- Settles O40. -/
theorem busFaultEntersFault : Obligations.BusFaultEntersFault := by
  intro s c rest hc hbus hst
  rw [step_of_fails hc hst (nextAnswer_cons hbus)]
  simp [busFaultEntry, finish, dropFrame, record, answerTaken, hbus]

/-! ## Where an answer comes from -/

/-- The state whose script is the free answer that is due, and nothing more. -/
abbrev withFreeAnswer (s : State) : State := { s with bus := [nextAnswer s] }

section
variable {s : State} (h : s.bus = [])
include h

theorem answerTaken_withFreeAnswer : answerTaken (withFreeAnswer s) = answerTaken s := by
  simp [answerTaken, h]

theorem busStatus_withFreeAnswer (reg : Byte) : busStatus reg (withFreeAnswer s) = busStatus reg s := by
  unfold busStatus
  rw [answerTaken_withFreeAnswer h]
  rfl

theorem busBurstRead_withFreeAnswer (reg : Byte) (count : Nat) :
    busBurstRead reg count (withFreeAnswer s) = busBurstRead reg count s := by
  unfold busBurstRead
  rw [answerTaken_withFreeAnswer h]
  rfl

theorem busStrobe_withFreeAnswer (cmd : Byte) : busStrobe cmd (withFreeAnswer s) = busStrobe cmd s := by
  unfold busStrobe
  rw [answerTaken_withFreeAnswer h]
  rfl

end

/-- Settles O8: the answer is the one the free values give; each primitive does the same when a script holds it. -/
theorem freeAnswerIsSomeAnswer : Obligations.FreeAnswerIsSomeAnswer := by
  intro s hbus hst
  refine ⟨nextAnswer s, ?_⟩
  have hr : receiving s.st = true := by
    rcases hst with hst | hst | hst | ⟨hst, -⟩ <;> rw [hst] <;> rfl
  rw [step_receiving hr, step_receiving (s := withFreeAnswer s) hr]
  cases hc : s.cfg with
  | none => simp only [drainStep, hc]
  | some c =>
    rcases hst with hst | hst | hst | ⟨hst, hn⟩
    · simp only [drainStep, hc, hst, drainHdr]
      rw [busBurstRead_withFreeAnswer hbus]
    · simp only [drainStep, hc, hst, drainQuery]
      rw [busStatus_withFreeAnswer hbus]
    · simp only [drainStep, hc, hst, flushEntry]
      rw [busStrobe_withFreeAnswer hbus]
    · simp only [drainStep, hc, hst, drainRead, if_neg hn]
      rw [busBurstRead_withFreeAnswer hbus]

/-! ## What a transition does not look at -/

/-- The state with other requests, another latched edge and another cancellation level. -/
abbrev withOutside (q : List Request) (edge cancel : Bool) (s : State) : State :=
  { s with requests := q, irqLatched := edge, cancelReady := cancel }

section
variable (q : List Request) (edge cancel : Bool) (c : Cfg) (s : State)

theorem afterHeader_withOutside (s0 : Byte) :
    afterHeader s0 (withOutside q edge cancel s) = withOutside q edge cancel (afterHeader s0 s) := by
  unfold afterHeader
  rw [apply_ite (withOutside q edge cancel), apply_ite (withOutside q edge cancel)]
  rfl

theorem drainHdr_withOutside :
    drainHdr c (withOutside q edge cancel s) = withOutside q edge cancel (drainHdr c s) := by
  have ha : nextAnswer (withOutside q edge cancel s) = nextAnswer s := rfl
  unfold drainHdr busBurstRead
  rw [ha]
  cases nextAnswer s with
  | fails => rfl
  | answers s0 data => exact afterHeader_withOutside q edge cancel (headed c s0 (burstData 1 s.draws data) s) s0

theorem afterStatus_withOutside (b : Byte) :
    afterStatus c b (withOutside q edge cancel s) = withOutside q edge cancel (afterStatus c b s) := by
  unfold afterStatus emptyObservation tieBreak
  simp only [apply_ite (withOutside q edge cancel)]
  rfl

theorem drainQuery_withOutside :
    drainQuery c (withOutside q edge cancel s) = withOutside q edge cancel (drainQuery c s) := by
  have ha : nextAnswer (withOutside q edge cancel s) = nextAnswer s := rfl
  unfold drainQuery busStatus
  rw [ha]
  cases nextAnswer s with
  | fails => rfl
  | answers b data => exact afterStatus_withOutside q edge cancel c (observed c b s) b

theorem drainRead_withOutside :
    drainRead c (withOutside q edge cancel s) = mapNext (withOutside q edge cancel) (drainRead c s) := by
  have ha : nextAnswer (withOutside q edge cancel s) = nextAnswer s := rfl
  by_cases hn : s.n = 0
  · rw [drainRead_of_nothing hn, drainRead_of_nothing (s := withOutside q edge cancel s) hn]
    rfl
  cases hs : nextAnswer s with
  | fails =>
    rw [drainRead_of_fails hn hs, drainRead_of_fails (s := withOutside q edge cancel s) hn (ha.trans hs)]
    rfl
  | answers b data =>
    rw [drainRead_of_answers hn hs, drainRead_of_answers (s := withOutside q edge cancel s) hn (ha.trans hs),
      apply_ite (mapNext _)]
    rfl

theorem flushEntry_withOutside :
    flushEntry c (withOutside q edge cancel s) = withOutside q edge cancel (flushEntry c s) := by
  have ha : nextAnswer (withOutside q edge cancel s) = nextAnswer s := rfl
  unfold flushEntry busStrobe
  rw [ha]
  cases nextAnswer s <;> rfl

theorem drainDone_withOutside :
    drainDone (withOutside q edge cancel s) = mapNext (withOutside q edge cancel) (drainDone s) := by
  have hm : memRead 0 s.cur (withOutside q edge cancel s) = memRead 0 s.cur s := rfl
  unfold drainDone
  rw [hm]
  cases memRead 0 s.cur s <;> rfl

/-- A transition of R123 neither reads nor writes what is outside the block but the radio's answers (R235). -/
theorem drainStep_withOutside :
    drainStep (withOutside q edge cancel s) = mapNext (withOutside q edge cancel) (drainStep s) := by
  cases hc : s.cfg with
  | none =>
    simp only [drainStep, hc]
    rfl
  | some c =>
    cases hst : s.st <;> simp only [drainStep, hc, hst]
    case hdr => rw [drainHdr_withOutside]; rfl
    case query => rw [drainQuery_withOutside]; rfl
    case read => rw [drainRead_withOutside]
    case flush => rw [flushEntry_withOutside]; rfl
    case done => rw [drainDone_withOutside]
    all_goals rfl

end

/-- Settles O6. -/
theorem receiveIsNotPreemptible : Obligations.ReceiveIsNotPreemptible := by
  intro s q edge cancel hr
  rw [step_receiving hr, step_receiving (s := withOutside q edge cancel s) hr]
  exact drainStep_withOutside q edge cancel s

/-! ## The cancellation handle -/

theorem DrainMove.outside_eq {c : Cfg} {s t : State} (h : DrainMove c s t) :
    t.requests = s.requests ∧ t.irqLatched = s.irqLatched := by
  cases h <;> exact ⟨rfl, rfl⟩

theorem operate_setCancel {body : State → State} {cancel : Bool}
    (h : ∀ s, body (setCancel cancel s) = setCancel cancel (body s)) (s : State) :
    operate body (setCancel cancel s) = mapNext (setCancel cancel) (operate body s) := by
  have hst : (setCancel cancel s).st = s.st := rfl
  unfold operate
  rw [hst]
  cases s.st with
  | idle => exact congrArg _ (h (beginOp s))
  | fault | hdr | query | read | pauseP | pauseE | flush | done => rfl

/-- Only the body of WAIT looks at the cancellation handle (44_wait.md R215). -/
theorem opBody_setCancel {i : Instr} (hi : i ≠ .wait) (cancel : Bool) (s : State) :
    opBody i (setCancel cancel s) = setCancel cancel (opBody i s) := by
  cases i with
  | wait => exact absurd rfl hi
  | lineEnc | lineDec | serEnc | serDec | receive | fdecAddr | fdecRaw | fdecLine => rfl

theorem exec_setCancel {i : Instr} (hi : i ≠ .wait) (cancel : Bool) (s : State) :
    exec i (setCancel cancel s) = mapNext (setCancel cancel) (exec i s) := by
  by_cases h : i = .receive → s.cfg ≠ none
  · rw [exec_eq_operate h, exec_eq_operate (s := setCancel cancel s) h, operate_setCancel (opBody_setCancel hi cancel)]
  · push Not at h
    obtain ⟨rfl, hc⟩ := h
    exact (execReceive_of_cfg_none (s := setCancel cancel s) hc).trans
      (congrArg (mapNext _) (execReceive_of_cfg_none hc)).symm

/-- A transition with another level of the handle is one with the same requests and the same edge. -/
theorem step_setCancel {s : State} (hr : receiving s.st = true) (cancel : Bool) :
    step (setCancel cancel s) = mapNext (setCancel cancel) (step s) := by
  refine (receiveIsNotPreemptible s s.requests s.irqLatched cancel hr).trans ?_
  cases h : step s with
  | fault f => rfl
  | refused r => rfl
  | next t =>
    obtain ⟨c, -, hmove⟩ := exists_drainMove hr ((step_receiving hr).symm.trans h)
    obtain ⟨hq, hedge⟩ := hmove.outside_eq
    simp only [mapNext, setCancel, ← hq, ← hedge]

/-- Settles O7. -/
theorem cancellationIsSeenOnlyByWait : Obligations.CancellationIsSeenOnlyByWait := by
  refine ⟨fun i s cancel hi => exec_setCancel hi cancel s, fun s cancel hr => step_setCancel hr cancel, ?_⟩
  intro s w more hst hready hwakes hnone
  have hcancel : (nextWake s).cancel.getD s.cancelReady = true := by rw [nextWake_of_cons hwakes, hnone]; exact hready
  exact ⟨_, exec_wait_idle hst, by rw [hcancel]; rfl, hcancel⟩

end Sys2Proof.Machine
end

section
/-! Runs of a RECEIVE: a run is determined by where it starts (40_fifo_drain.md R123), and no register that an earlier
packet left changes it (10_state.md R27, 70_reset_and_hazards.md R261). -/

namespace Sys2Proof.Machine

/-! ## Runs -/

/-- `k` transitions of a RECEIVE from one state to another, which is in progress before each of them. -/
inductive DrainRun : Nat → State → State → Prop
  | refl (s : State) : DrainRun 0 s s
  | step {k : Nat} {s u t : State} : receiving s.st = true → step s = .next u → DrainRun k u t → DrainRun (k + 1) s t

theorem DrainRun.of_runSteps {k : Nat} : ∀ {s t : State},
    (∀ j, j < k → ∃ u, runSteps j s = .next u ∧ receiving u.st = true) → runSteps k s = .next t → DrainRun k s t := by
  induction k with
  | zero =>
    intro s t _ h
    cases h
    exact .refl s
  | succ k ih =>
    intro s t hrec h
    obtain ⟨s', hs', hr⟩ := hrec 0 (by omega)
    cases hs'
    cases hs : Sys2Proof.Machine.step s with
    | fault f => simp [runSteps, hs] at h
    | refused r => simp [runSteps, hs] at h
    | next u =>
      rw [runSteps_succ hs] at h
      exact .step hr hs (ih (fun j hj => runSteps_succ hs j ▸ hrec (j + 1) (by omega)) h)

theorem DrainRun.runSteps {k : Nat} {s t : State} (h : DrainRun k s t) :
    (∀ j, j < k → ∃ u, Machine.runSteps j s = .next u ∧ receiving u.st = true) ∧ Machine.runSteps k s = .next t := by
  induction h with
  | refl s => exact ⟨fun _ hj => absurd hj (Nat.not_lt_zero _), rfl⟩
  | @step k s u t hr hs _ ih =>
    obtain ⟨hrec, hrun⟩ := ih
    refine ⟨fun j hj => ?_, (runSteps_succ hs k).trans hrun⟩
    cases j with
    | zero => exact ⟨s, rfl, hr⟩
    | succ j => exact runSteps_succ hs j ▸ hrec j (by omega)

/-- From IDLE with a configuration the run that RECEIVE begins is the one from its start values (R101). -/
theorem drainRun_startReceive_iff {s t : State} {c : Cfg} {k : Nat} (hst : s.st = .idle) (hc : s.cfg = some c) :
    DrainRun k (startReceive s) t ↔ receivingFor k s ∧ execThenSteps .receive k s = .next t := by
  have hexec := execThenSteps_of_next (exec_receive_idle hst hc)
  unfold receivingFor
  simp only [hexec]
  exact ⟨DrainRun.runSteps, fun ⟨hrec, hrun⟩ => .of_runSteps hrec hrun⟩

/-- A run that ends passes through every state that a run from the same start reaches. -/
theorem DrainRun.exists_rest {k j : Nat} {s t u : State} (ht : DrainRun k s t) (hu : DrainRun j s u)
    (hend : receiving t.st = false) : ∃ m, DrainRun m u t := by
  induction hu generalizing k with
  | refl => exact ⟨k, ht⟩
  | step hr hs _ ih =>
    cases ht with
    | refl => cases hend.symm.trans hr
    | step _ hs' hrest =>
      cases hs.symm.trans hs'
      exact ih hrest

theorem DrainRun.eq_of_ended {k : Nat} {s t : State} (h : DrainRun k s t) (hend : receiving s.st = false) :
    t = s := by
  cases h with
  | refl => rfl
  | step hr => cases hend.symm.trans hr

/-! ## What a RECEIVE does not depend on -/

/-- The state with a fixed value in every register that a RECEIVE in progress will write before it reads it, or never
reads. -/
def forget (s : State) : State :=
  { s with
    lineTable := Vector.replicate 16 0
    len := 0
    avail := 0
    n := if s.st = .read then s.n else 0
    pending := if s.st = .flush then s.pending else .overflow
    res := if receiving s.st = true then .ok (.bytes []) else s.res
    operand := []
    timeout := 0
    requests := []
    irqLatched := false
    cancelReady := false
    wakes := [] }

theorem nextAnswer_forget (s : State) : nextAnswer (forget s) = nextAnswer s := rfl

theorem forget_drainHdr (c : Cfg) (s : State) : forget (drainHdr c (forget s)) = forget (drainHdr c s) := by
  unfold drainHdr busBurstRead
  rw [nextAnswer_forget]
  cases nextAnswer s with
  | fails => rfl
  | answers s0 data =>
    simp only [afterHeader, apply_ite forget]
    rfl

theorem forget_drainQuery (c : Cfg) {s : State} (hst : s.st = .query) :
    forget (drainQuery c (forget s)) = forget (drainQuery c s) := by
  unfold drainQuery busStatus
  rw [nextAnswer_forget]
  cases nextAnswer s with
  | fails => rfl
  | answers b data =>
    cases s
    cases hst
    simp only [afterStatus, emptyObservation, tieBreak, apply_ite forget]
    rfl

/-- Behind READ neither the chunk's length nor the pending error nor the result is looked at. -/
theorem forget_afterChunk (s : State) :
    forget (afterChunk s) =
      { forget s with
        st := if s.last then .done else .pauseP, n := 0, pending := .overflow, res := .ok (.bytes []) } := by
  cases hl : s.last <;> simp [forget, afterChunk, hl, receiving]

theorem forget_drainRead (c : Cfg) {s : State} (hst : s.st = .read) :
    mapNext forget (drainRead c (forget s)) = mapNext forget (drainRead c s) := by
  have hn' : (forget s).n = s.n := if_pos hst
  by_cases hn : s.n = 0
  · rw [drainRead_of_nothing hn, drainRead_of_nothing (hn'.trans hn), mapNext, mapNext, forget_afterChunk,
      forget_afterChunk]
    rfl
  cases hs : nextAnswer s with
  | fails =>
    rw [drainRead_of_fails hn hs, drainRead_of_fails (s := forget s) (hn' ▸ hn) hs]
    rfl
  | answers b data =>
    rw [drainRead_of_answers hn hs, drainRead_of_answers (s := forget s) (hn' ▸ hn) hs, apply_ite (mapNext _),
      apply_ite (mapNext _)]
    simp only [mapNext, forget_afterChunk, appended, hn']
    rfl

theorem forget_flushEntry (c : Cfg) {s : State} (hst : s.st = .flush) :
    forget (flushEntry c (forget s)) = forget (flushEntry c s) := by
  unfold flushEntry busStrobe
  rw [nextAnswer_forget]
  cases nextAnswer s with
  | fails => rfl
  | answers b data =>
    cases s
    cases hst
    rfl

theorem forget_drainDone (s : State) : mapNext forget (drainDone (forget s)) = mapNext forget (drainDone s) := by
  have hm : memRead 0 s.cur (forget s) = memRead 0 s.cur s := rfl
  unfold drainDone
  rw [show (forget s).cur = s.cur from rfl, hm]
  cases memRead 0 s.cur s <;> rfl

/-- A transition looks at none of the forgotten registers, up to what it forgets itself (R261). -/
theorem forget_drainStep {s : State} (hr : receiving s.st = true) :
    mapNext forget (drainStep (forget s)) = mapNext forget (drainStep s) := by
  have hcfg : (forget s).cfg = s.cfg := rfl
  have hst' : (forget s).st = s.st := rfl
  unfold drainStep
  rw [hcfg, hst']
  cases s.cfg with
  | none => rfl
  | some c =>
    cases hst : s.st <;> simp only
    case idle | fault => simp [hst, receiving] at hr
    case hdr => exact congrArg Host.Outcome.next (forget_drainHdr c s)
    case query => exact congrArg Host.Outcome.next (forget_drainQuery c hst)
    case read => exact forget_drainRead c hst
    case pauseP | pauseE => rfl
    case flush => exact congrArg Host.Outcome.next (forget_flushEntry c hst)
    case done => exact forget_drainDone s

theorem exists_of_mapNext_eq_next {f : State → State} {o : Host.Outcome State Fault Refusal} {u : State}
    (h : mapNext f o = .next u) : ∃ t, o = .next t ∧ f t = u := by
  cases o with
  | next t => exact ⟨t, rfl, Host.Outcome.next.inj h⟩
  | fault r => cases h
  | refused r => cases h

theorem st_eq_of_forget_eq {s₁ s₂ : State} (h : forget s₁ = forget s₂) : s₁.st = s₂.st := by
  show (forget s₁).st = (forget s₂).st
  rw [h]

/-- Two blocks alike but for what is forgotten take transitions to two such blocks. -/
theorem exists_step_of_forget_eq {s₁ s₂ t₁ : State} (hr : receiving s₁.st = true) (h : forget s₁ = forget s₂)
    (hs : step s₁ = .next t₁) : ∃ t₂, step s₂ = .next t₂ ∧ forget t₁ = forget t₂ := by
  have hst := st_eq_of_forget_eq h
  have hsame : mapNext forget (step s₂) = .next (forget t₁) := by
    rw [step_receiving (hst ▸ hr), ← forget_drainStep (hst ▸ hr), ← h, forget_drainStep hr, ← step_receiving hr, hs]
    rfl
  obtain ⟨t₂, ht₂, e⟩ := exists_of_mapNext_eq_next hsame
  exact ⟨t₂, ht₂, e.symm⟩

theorem DrainRun.exists_of_forget_eq {k : Nat} {s₁ t₁ : State} (h : DrainRun k s₁ t₁) :
    ∀ {s₂ : State}, forget s₁ = forget s₂ → ∃ t₂, DrainRun k s₂ t₂ ∧ forget t₁ = forget t₂ := by
  induction h with
  | refl => exact fun he => ⟨_, .refl _, he⟩
  | step hr hs _ ih =>
    intro s₂ he
    obtain ⟨u₂, hs₂, he'⟩ := exists_step_of_forget_eq hr he hs
    obtain ⟨t₂, hrun, he''⟩ := ih he'
    exact ⟨t₂, .step (st_eq_of_forget_eq he ▸ hr) hs₂ hrun, he''⟩

/-- Settles O48: RECEIVE starts two blocks alike but for what is forgotten, and the forgotten result is written at the
end. -/
theorem noStateLeaksBetweenPackets : Obligations.NoStateLeaksBetweenPackets := by
  intro s₁ s₂ c hst₁ hst₂ hc₁ hc₂ hovf hbus hdraws k t₁ hrec hrun
  have hstart : forget (startReceive s₁) = forget (startReceive s₂) := by
    simp [forget, startReceive, receiving, hc₁, hc₂, hovf, hbus, hdraws]
  obtain ⟨t₂, hrun₂, he⟩ := ((drainRun_startReceive_iff hst₁ hc₁).2 ⟨hrec, hrun⟩).exists_of_forget_eq hstart
  obtain ⟨-, hexec⟩ := (drainRun_startReceive_iff hst₂ hc₂).1 hrun₂
  have hst := st_eq_of_forget_eq he
  have hres := congrArg State.res he
  refine ⟨t₂, hexec, hst.symm, (congrArg State.trace he).symm, (congrArg State.buf he).symm,
    (congrArg State.cur he).symm, (congrArg State.tgt he).symm, (congrArg State.empty he).symm,
    (congrArg State.bus he).symm, (congrArg State.draws he).symm, fun hend => ?_⟩
  simp only [forget, ← hst, hend] at hres
  exact hres.symm

end Sys2Proof.Machine
end

section
/-! The pseudocode of R124 and the machine of R123 (decision D12): along every script of answers the machine, started
by RECEIVE, either ends as the pseudocode does or, when that runs out of answers, stands before a primitive with all
answers of the script taken. -/

namespace Sys2Proof.Machine

/-! ## Where the machine gets to -/

/-- What the pseudocode's outcome says of a state of the machine: it has ended alike, or it is about to take one more
answer after all `total` of them. -/
def Reached (total : Nat) : Option Ended → State → Prop
  | some e, t => receiving t.st = false ∧ t.res = e.result ∧ t.st = e.st ∧ t.trace = e.trace
  | none, u => u.cfg ≠ none ∧ TakesAnswer u ∧ u.draws = total

/-- A run of the machine gets to where the pseudocode's outcome says. -/
def Matches (total : Nat) (o : Option Ended) (s : State) : Prop := ∃ k t, DrainRun k s t ∧ Reached total o t

theorem Matches.here {total : Nat} {o : Option Ended} {s : State} (h : Reached total o s) : Matches total o s :=
  ⟨0, s, .refl s, h⟩

theorem Matches.after {total : Nat} {o : Option Ended} {s u : State} (hr : receiving s.st = true)
    (hs : step s = .next u) (h : Matches total o u) : Matches total o s := by
  obtain ⟨k, t, hrun, hreached⟩ := h
  exact ⟨k + 1, t, .step hr hs hrun, hreached⟩

theorem TakesAnswer.receiving {s : State} (h : TakesAnswer s) : receiving s.st = true := by
  rcases h with h | h | h | ⟨h, -⟩ <;> rw [h] <;> rfl

/-! ## The pseudocode's variables in the machine -/

/-- The registers hold the pseudocode's variables: the answers to come and the number of the first, the bytes so far,
the trace. -/
abbrev Carries (c : Cfg) (answers : List BusAnswer) (draw : Nat) (raw : List Byte) (trace : List BusEvent) (s : State) :
    Prop :=
  s.cfg = some c ∧ s.bus = answers ∧ s.draws = draw ∧ s.trace = trace ∧ BufExact s ∧ s.buf.map Prod.snd = raw

section
variable {c : Cfg} {answers more : List BusAnswer} {draw total : Nat} {raw data : List Byte} {b : Byte}
  {trace : List BusEvent} {s : State}

theorem Carries.cur_eq (h : Carries c answers draw raw trace s) : s.cur = raw.length := by
  obtain ⟨-, -, -, -, hexact, rfl⟩ := h
  simpa using (congrArg List.length hexact).symm

/-- An event recorded with an answer taken moves the pseudocode on by that answer. -/
theorem Carries.recorded (h : Carries c (.answers b data :: more) draw raw trace s) (e : BusEvent) :
    Carries c more (draw + 1) raw (trace ++ [e]) (record e (answerTaken s)) := by
  obtain ⟨hc, hbus, rfl, rfl, hexact, hraw⟩ := h
  exact ⟨hc, by simp [hbus], rfl, rfl, hexact, hraw⟩

/-- With no answer left the machine stands where the pseudocode gives nothing. -/
theorem Carries.reached_none (h : Carries c [] draw raw trace s) (hst : TakesAnswer s) (hd : draw = total) :
    Reached total none s := by
  obtain ⟨hc, -, rfl, -⟩ := h
  exact ⟨by simp [hc], hst, hd⟩

/-- A primitive that fails ends both alike (R122). -/
theorem Carries.matches_fault (h : Carries c (.fails :: more) draw raw trace s) (hst : TakesAnswer s) :
    Matches total (some (endedByFault trace)) s := by
  obtain ⟨hc, hbus, -, rfl, -⟩ := h
  exact .after hst.receiving (step_of_fails hc hst (nextAnswer_cons hbus)) (.here ⟨rfl, rfl, rfl, rfl⟩)

/-- FLUSH is `flush_fail` of the pseudocode (R120). -/
theorem Carries.matches_flushFail (h : Carries c answers draw raw trace s) (hst : s.st = .flush)
    (ht : draw + answers.length = total) : Matches total (flushFail c s.pending trace answers) s := by
  have htakes : TakesAnswer s := .inr (.inr (.inl hst))
  match answers, h with
  | [], h => exact .here (h.reached_none htakes (by simpa using ht))
  | .fails :: more, h => exact h.matches_fault htakes
  | .answers b data :: more, h =>
    obtain ⟨hc, hbus, -, rfl, -⟩ := h
    exact .after htakes.receiving (step_flush_of_answers hst hc (nextAnswer_cons hbus)) (.here ⟨rfl, rfl, rfl, rfl⟩)

/-- DONE gives the bytes so far (R119). -/
theorem Carries.matches_done (h : Carries c answers draw raw trace s) (hst : s.st = .done) :
    Matches total (some ⟨.ok (.bytes raw), .idle, trace⟩) s := by
  obtain ⟨hc, -, -, rfl, hexact, rfl⟩ := h
  exact .after (by rw [hst]; rfl) ((step_done hst hc).trans (drainDone_ok (readBytes_all hexact)))
    (.here ⟨rfl, rfl, rfl, rfl⟩)

/-- The chunk of READ follows the bytes so far (R115). -/
theorem Carries.appended {k : Nat} (h : Carries c (.answers b data :: more) draw raw trace s) (hn : s.n = k) :
    Carries c more (draw + 1) (raw ++ burstData k draw data)
      (trace ++ [.burstRead c.regRxfifo k b (burstData k draw data)])
      (appended c b (burstData s.n s.draws data) s) := by
  obtain ⟨hc, hbus, rfl, rfl, hexact, rfl⟩ := h
  subst hn
  refine ⟨hc, by simp [hbus], rfl, rfl, bufExact_appended hexact (length_burstData ..) c b, ?_⟩
  exact (writeBytes_append (keys_lt_of_range hexact)).2

/-- READ of a chunk that fits, then what follows the chunk. -/
theorem Carries.matches_read {o : Option Ended} (h : Carries c (.answers b data :: more) draw raw trace s)
    (hst : s.st = .read) (hn : s.n ≠ 0) (hfit : raw.length + s.n ≤ Config.bufCap)
    (hnext : Matches total o (afterChunk (Machine.appended c b (burstData s.n s.draws data) s))) :
    Matches total o s := by
  have hcur := h.cur_eq
  obtain ⟨hc, hbus, -⟩ := h
  exact .after (by rw [hst]; rfl) (step_read_of_answers hst hc hn (nextAnswer_cons hbus) (by rw [hcur]; exact hfit)) hnext

/-- A pause appends its event and leads to QUERY (R110, R116). -/
theorem Carries.matches_pause {o : Option Ended} (h : Carries c answers draw raw trace s)
    (hst : s.st = .pauseP ∨ s.st = .pauseE)
    (hnext : ∀ u : State, u.st = .query → u.tgt = s.tgt → u.empty = s.empty →
      Carries c answers draw raw (trace ++ [.pause c.pauseUs]) u → Matches total o u) : Matches total o s := by
  obtain ⟨hc, hbus, hdraws, rfl, hbuf⟩ := h
  exact .after (by rcases hst with hst | hst <;> rw [hst] <;> rfl) (step_pause hst hc)
    (hnext _ rfl rfl rfl ⟨hc, hbus, hdraws, rfl, hbuf⟩)

theorem Carries.matches_query {o : Option Ended} (h : Carries c (.answers b data :: more) draw raw trace s)
    (hst : s.st = .query) (hnext : Matches total o (afterStatus c b (observed c b s))) : Matches total o s := by
  obtain ⟨hc, hbus, -⟩ := h
  exact .after (by rw [hst]; rfl) (step_query_of_answers hst hc (nextAnswer_cons hbus)) hnext

end

/-! ## The loop -/

theorem statusCount_eq_zero {b : Byte} : statusCount b = 0 ↔ b &&& 0x7F = 0 :=
  ⟨fun h => BitVec.eq_of_toNat_eq h, fun h => congrArg BitVec.toNat h⟩

/-- A count that is neither 0 nor 1 leaves a chunk to read when one byte is left in the FIFO (R112). -/
theorem sub_one_ne_zero {b : Byte} (h0 : ¬b &&& 0x7F = 0) (h1 : ¬(b &&& 0x7F).toNat = 1) : statusCount b - 1 ≠ 0 := by
  have hne : statusCount b ≠ 0 := mt statusCount_eq_zero.1 h0
  have hne' : statusCount b ≠ 1 := h1
  omega

section
variable {c : Cfg} {more : List BusAnswer} {draw total : Nat} {raw data : List Byte} {b : Byte}
  {trace : List BusEvent} {s : State} {o : Option Ended}
  (h : Carries c (.answers b data :: more) draw raw trace s) (hst : s.st = .query) (ho : ovfFlag b = false)
include h hst ho

/-- A count that completes the frame leads to READ of the whole of it (R112). -/
theorem Carries.matches_complete (h1 : statusCount b ≠ 0) (h64 : statusCount b ≤ 64)
    (hge : s.tgt ≤ raw.length + statusCount b)
    (hnext : ∀ u : State, u.st = .read → u.n = statusCount b → u.last = true →
      Carries c more (draw + 1) raw (trace ++ [.status c.regRxbytes b]) u → Matches total o u) :
    Matches total o s := by
  refine h.matches_query hst ?_
  rw [afterStatus_of_complete ho (Nat.pos_of_ne_zero h1) h64 (h.cur_eq ▸ hge)]
  exact hnext _ rfl rfl rfl (h.recorded _)

/-- A count that does not complete the frame leads to READ of all but one byte (R112). -/
theorem Carries.matches_partial (h1 : statusCount b ≠ 0) (h64 : statusCount b ≤ 64)
    (hlt : raw.length + statusCount b < s.tgt)
    (hnext : ∀ u : State, u.st = .read → u.tgt = s.tgt → u.empty = 0 → u.n = statusCount b - 1 → u.last = false →
      Carries c more (draw + 1) raw (trace ++ [.status c.regRxbytes b]) u → Matches total o u) :
    Matches total o s := by
  refine h.matches_query hst ?_
  rw [afterStatus_of_partial ho (Nat.pos_of_ne_zero h1) h64 (h.cur_eq ▸ hlt)]
  exact hnext _ rfl rfl rfl rfl rfl (h.recorded _)

end

/-- From QUERY, with the variables of the pseudocode in the registers, the machine follows the loop of R124: one
status read in each round, and then the flush, the pause, the next status read, or the chunk. -/
theorem receiveLoop_matches {c : Cfg} {tgt : Nat} (htgt : tgt ≤ 257) (answers : List BusAnswer) (draw : Nat)
    (raw : List Byte) (empty : Nat) (trace : List BusEvent) : ∀ {s : State} {total : Nat},
      s.st = .query → s.tgt = tgt → s.empty = empty → Carries c answers draw raw trace s → raw.length + 2 ≤ tgt →
      draw + answers.length = total → Matches total (receiveLoop c tgt answers draw raw empty trace) s := by
  fun_induction receiveLoop c tgt answers draw raw empty trace with
  | case1 draw raw empty trace =>
    intro s total hst _ _ h _ ht
    exact .here (h.reached_none (.inr (.inl hst)) ht)
  | case2 more draw raw empty trace =>
    intro s total hst _ _ h _ _
    exact h.matches_fault (.inr (.inl hst))
  | case3 b data more draw raw empty trace ho =>
    intro s total hst _ _ h _ ht
    rw [List.length_cons] at ht
    refine h.matches_query hst ?_
    rw [afterStatus_of_overflow ho]
    exact Carries.matches_flushFail (s := raisePending .overflow _) (h.recorded _) rfl (by omega)
  | case4 b data more draw raw empty trace ho h0 hspent =>
    intro s total hst _ he h _ ht
    rw [List.length_cons] at ht
    refine h.matches_query hst ?_
    rw [afterStatus_of_spent (eq_false_of_ne_true ho) (statusCount_eq_zero.2 h0) (he ▸ hspent)]
    exact Carries.matches_flushFail (s := raisePending .receiveTimeout _) (h.recorded _) rfl (by omega)
  | case5 b data more draw raw empty trace ho h0 hleft ih =>
    intro s total hst htg he h hlacks ht
    rw [List.length_cons] at ht
    refine h.matches_query hst ?_
    rw [afterStatus_of_left (eq_false_of_ne_true ho) (statusCount_eq_zero.2 h0) (he ▸ Nat.not_le.1 hleft)]
    refine Carries.matches_pause (s := { observed c b s with avail := 0, empty := s.empty + 1, st := .pauseE })
      (h.recorded _) (.inr rfl) fun u hu htu heu hcu => ?_
    rw [List.append_assoc] at hcu
    exact ih hu (htu.trans htg) (heu.trans (congrArg _ he)) hcu hlacks (by omega)
  | case6 b data more draw raw empty trace ho h0 hg ih =>
    intro s total hst htg he h hlacks ht
    rw [List.length_cons] at ht
    refine h.matches_query hst ?_
    rw [afterStatus_of_garbage (eq_false_of_ne_true ho) hg]
    exact ih hst htg he (h.recorded _) hlacks (by omega)
  | case7 b data draw raw empty trace ho h0 hg hge =>
    intro s total hst htg _ h _ ht
    refine h.matches_complete hst (eq_false_of_ne_true ho) (mt statusCount_eq_zero.1 h0) (Nat.not_lt.1 hg) (htg ▸ hge)
      fun u hu hn _ hcu => ?_
    exact .here (hcu.reached_none (.inr (.inr (.inr ⟨hu, hn ▸ mt statusCount_eq_zero.1 h0⟩))) ht)
  | case8 b data draw raw empty trace ho h0 hg hge more =>
    intro s total hst htg _ h _ _
    refine h.matches_complete hst (eq_false_of_ne_true ho) (mt statusCount_eq_zero.1 h0) (Nat.not_lt.1 hg) (htg ▸ hge)
      fun u hu hn _ hcu => ?_
    exact hcu.matches_fault (.inr (.inr (.inr ⟨hu, hn ▸ mt statusCount_eq_zero.1 h0⟩)))
  | case9 b data draw raw empty trace ho h0 hg hge b' data' more =>
    intro s total hst htg _ h hlacks _
    refine h.matches_complete hst (eq_false_of_ne_true ho) (mt statusCount_eq_zero.1 h0) (Nat.not_lt.1 hg) (htg ▸ hge)
      fun u hu hn hlast hcu => ?_
    refine hcu.matches_read hu (hn ▸ mt statusCount_eq_zero.1 h0) ?_ ?_
    · simp only [hn, statusCount, Config.bufCap]
      omega
    · have hdone := hcu.appended hn
      rw [List.append_assoc] at hdone
      exact Carries.matches_done (s := afterChunk _) hdone (afterChunk_st_eq_done.2 hlast)
  | case10 b data more draw raw empty trace ho h0 hg hge h1 ih =>
    intro s total hst htg _ h hlacks ht
    rw [List.length_cons] at ht
    refine h.matches_partial hst (eq_false_of_ne_true ho) (mt statusCount_eq_zero.1 h0) (Nat.not_lt.1 hg)
      (htg ▸ Nat.not_le.1 hge) fun u hu htu heu hn hlast hcu => ?_
    have hn0 : u.n = 0 := hn.trans (congrArg (· - 1) h1)
    refine .after (by rw [hu]; rfl) (step_read_of_nothing hu hcu.1 hn0) ?_
    refine Carries.matches_pause (s := afterChunk u) hcu (.inl (afterChunk_st_eq_pauseP.2 hlast))
      fun v hv htv hev hcv => ?_
    rw [List.append_assoc] at hcv
    exact ih hv (htv.trans (htu.trans htg)) (hev.trans heu) hcv hlacks (by omega)
  | case11 b data draw raw empty trace ho h0 hg hge h1 =>
    intro s total hst htg _ h _ ht
    refine h.matches_partial hst (eq_false_of_ne_true ho) (mt statusCount_eq_zero.1 h0) (Nat.not_lt.1 hg)
      (htg ▸ Nat.not_le.1 hge) fun u hu _ _ hn _ hcu => ?_
    exact .here (hcu.reached_none (.inr (.inr (.inr ⟨hu, hn ▸ sub_one_ne_zero h0 h1⟩))) ht)
  | case12 b data draw raw empty trace ho h0 hg hge h1 more =>
    intro s total hst htg _ h _ _
    refine h.matches_partial hst (eq_false_of_ne_true ho) (mt statusCount_eq_zero.1 h0) (Nat.not_lt.1 hg)
      (htg ▸ Nat.not_le.1 hge) fun u hu _ _ hn _ hcu => ?_
    exact hcu.matches_fault (.inr (.inr (.inr ⟨hu, hn ▸ sub_one_ne_zero h0 h1⟩)))
  | case13 b data draw raw empty trace ho h0 hg hge h1 b' data' more chunk =>
    rename_i ih
    intro s total hst htg _ h hlacks ht
    rw [List.length_cons, List.length_cons] at ht
    refine h.matches_partial hst (eq_false_of_ne_true ho) (mt statusCount_eq_zero.1 h0) (Nat.not_lt.1 hg)
      (htg ▸ Nat.not_le.1 hge) fun u hu htu heu hn hlast hcu => ?_
    refine hcu.matches_read hu (hn ▸ sub_one_ne_zero h0 h1) ?_ ?_
    · simp only [hn, statusCount, Config.bufCap]
      omega
    refine Carries.matches_pause (s := afterChunk _) (hcu.appended hn) (.inl (afterChunk_st_eq_pauseP.2 hlast))
      fun v hv htv hev hcv => ?_
    rw [List.append_assoc, List.append_assoc] at hcv
    refine ih hv (htv.trans (htu.trans htg)) (hev.trans heu) hcv ?_ (by omega)
    rw [List.length_append, length_burstData]
    omega

/-- From HDR the machine follows the whole of R124: the length byte leads to the flush or to the loop. -/
theorem receiveWhole_matches {c : Cfg} {s : State} (hst : s.st = .hdr) (hc : s.cfg = some c) (hcur : s.cur = 0)
    (hempty : s.empty = 0) (hbuf : s.buf = []) (htrace : s.trace = []) :
    Matches (s.draws + s.bus.length) (receiveWhole c s.hdrOvfBytes s.bus s.draws) s := by
  have h : Carries c s.bus s.draws [] [] s := ⟨hc, rfl, rfl, htrace, by simp [BufExact, hbuf, hcur], by simp [hbuf]⟩
  have htakes : TakesAnswer s := .inl hst
  generalize hbus : s.bus = answers at h
  unfold receiveWhole
  match answers, h with
  | [], h => exact .here (h.reached_none htakes rfl)
  | .fails :: more, h => exact h.matches_fault htakes
  | .answers s0 data :: more, h =>
    have hhead := h.recorded (.burstRead c.regRxfifo 1 s0 (burstData 1 s.draws data))
    refine .after htakes.receiving ((step_hdr hst hc).trans
      (congrArg _ (drainHdr_of_answers (nextAnswer_cons hbus)))) ?_
    simp only [List.length_cons]
    split
    next hz =>
      rw [afterHeader_of_zero hz]
      exact Carries.matches_flushFail (s := raisePending .invalidLength _) hhead rfl (by omega)
    next hz =>
    split
    next ho =>
      rw [afterHeader_of_overflow (s := headed c s0 _ s) hz ho]
      exact Carries.matches_flushFail (s := raisePending .overflow _) hhead rfl (by omega)
    next ho =>
      rw [afterHeader_of_target (s := headed c s0 _ s) hz ho]
      obtain ⟨-, hle⟩ := three_le_target hz
      exact receiveLoop_matches hle _ _ _ _ _ rfl rfl hempty hhead (by simp) (by omega)

/-! ## Both directions -/

theorem DrainMove.draws_le {c : Cfg} {s t : State} (h : DrainMove c s t) : s.draws ≤ t.draws := by
  cases h with
  | nothingToRead | pause | frameDone => exact Nat.le_refl _
  | busFault | zeroLength | headerOverflow | target | overflow | budgetSpent | nothingThere | garbage | completing
  | leavingOne | chunkRead | flushed => exact Nat.le_succ _

theorem DrainRun.draws_le {k : Nat} {s t : State} (h : DrainRun k s t) : s.draws ≤ t.draws := by
  induction h with
  | refl => exact Nat.le_refl _
  | step hr hs _ ih =>
    obtain ⟨c, -, hmove⟩ := exists_drainMove hr ((step_receiving hr).symm.trans hs)
    exact Nat.le_trans hmove.draws_le ih

/-- A transition that takes an answer counts it. -/
theorem draws_of_takesAnswer {s t : State} (hst : TakesAnswer s) (h : step s = .next t) : t.draws = s.draws + 1 := by
  obtain ⟨c, -, hmove⟩ := exists_drainMove hst.receiving ((step_receiving hst.receiving).symm.trans h)
  cases hmove with
  | nothingToRead hst' hn => simp [TakesAnswer, hst', hn] at hst
  | pause hst' => rcases hst' with hst' | hst' <;> simp [TakesAnswer, hst'] at hst
  | frameDone hst' => simp [TakesAnswer, hst'] at hst
  | busFault | zeroLength | headerOverflow | target | overflow | budgetSpent | nothingThere | garbage | completing
  | leavingOne | chunkRead | flushed => rfl

/-- Where the run of a RECEIVE gets to, by the pseudocode's outcome. -/
theorem exists_drainRun_reached {s : State} {c : Cfg} (hc : s.cfg = some c) :
    Matches (s.draws + s.bus.length) (receiveWhole c s.hdrOvfBytes s.bus s.draws) (startReceive s) :=
  receiveWhole_matches (s := startReceive s) rfl hc rfl rfl rfl rfl

/-- Settles O46: the run that follows the pseudocode is the one that RECEIVE begins. -/
theorem machineEndsAsThePseudocode : Obligations.MachineEndsAsThePseudocode := by
  intro s c e hst hc he
  obtain ⟨k, t, hrun, hreached⟩ := exists_drainRun_reached hc
  rw [he] at hreached
  obtain ⟨hrec, hexec⟩ := (drainRun_startReceive_iff hst hc).1 hrun
  exact ⟨k, t, hrec, hexec, hreached⟩

/-- Settles O47: the run that has ended passes through the state the pseudocode's outcome names. That is the end
itself, or a state from which one more answer than the script holds is taken. -/
theorem pseudocodeEndsAsTheMachine : Obligations.PseudocodeEndsAsTheMachine := by
  intro s c k t hst hc hrec hexec hend hdraws
  have hrun := (drainRun_startReceive_iff hst hc).2 ⟨hrec, hexec⟩
  obtain ⟨j, u, hrun', hreached⟩ := exists_drainRun_reached hc
  obtain ⟨m, hrest⟩ := hrun.exists_rest hrun' hend
  cases ho : receiveWhole c s.hdrOvfBytes s.bus s.draws with
  | some e =>
    rw [ho] at hreached
    obtain ⟨hended, hres, hst', htrace⟩ := hreached
    obtain rfl := hrest.eq_of_ended hended
    rw [hres, hst', htrace]
  | none =>
    rw [ho] at hreached
    obtain ⟨-, htakes, htotal⟩ := hreached
    cases hrest with
    | refl => cases hend.symm.trans htakes.receiving
    | step _ hs hrest =>
      have h1 := draws_of_takesAnswer htakes hs
      have h2 := hrest.draws_le
      omega

end Sys2Proof.Machine
end

section
/-! The answer sequences on which RECEIVE gains nothing (40_fifo_drain.md R125), round by round, and the caller's loop
(60_exceptions.md R243). -/

namespace Sys2Proof.Machine

/-! ## Rounds that gain nothing -/

/-- After `k` steps the unit is back in QUERY with the frame as it was and `rest` to come, and `empty` is as given. -/
def BackAtQuery (c : Cfg) (k empty : Nat) (rest : List BusAnswer) (s : State) : Prop :=
  ∃ u, (∀ j, runSteps (j + k) s = runSteps j u) ∧ u.st = .query ∧ u.cfg = some c ∧ u.cur = s.cur ∧ u.tgt = s.tgt ∧
    u.empty = empty ∧ u.bus = rest

section
variable {s : State} {c : Cfg} {data : List Byte} {rest : List BusAnswer} (hst : s.st = .query) (hc : s.cfg = some c)
include hst hc

/-- A count above 64 is looked at and nothing else happens (R111). -/
theorem backAtQuery_of_garbage {b : Byte} (hbus : s.bus = .answers b data :: rest) (ho : ovfFlag b = false)
    (hg : 64 < statusCount b) : BackAtQuery c 1 s.empty rest s := by
  have hquery := step_query_of_answers hst hc (nextAnswer_cons hbus)
  rw [afterStatus_of_garbage ho hg] at hquery
  exact ⟨_, fun j => runSteps_succ hquery j, hst, hc, rfl, rfl, rfl, by simp [hbus]⟩

/-- An empty observation within the budget is followed by a pause (R110). -/
theorem backAtQuery_of_zero (hbus : s.bus = .answers 0 data :: rest) (hleft : s.empty + 1 < c.emptyBudget.toNat) :
    BackAtQuery c 2 (s.empty + 1) rest s := by
  have hquery := step_query_of_answers hst hc (nextAnswer_cons hbus)
  rw [afterStatus_zero_of_left (s := observed c 0 s) hleft] at hquery
  exact ⟨_, fun j => (runSteps_succ hquery (j + 1)).trans
    (runSteps_succ (step_pause (.inr rfl) (by exact hc)) j), rfl, hc, rfl, rfl,
    rfl, by simp [hbus]⟩

/-- The one byte of a count of 1 stays in the FIFO when it does not complete the frame: nothing is read (R112, R113).
-/
theorem backAtQuery_of_one (hbus : s.bus = .answers 1 data :: rest) (hlt : s.cur + 1 < s.tgt) :
    BackAtQuery c 3 0 rest s := by
  have hquery := step_query_of_answers hst hc (nextAnswer_cons hbus)
  rw [afterStatus_of_partial (s := observed c 1 s) (b := 1) rfl (by decide) (by decide) hlt] at hquery
  exact ⟨_, fun j => (runSteps_succ hquery (j + 2)).trans
    ((runSteps_succ (step_read_of_nothing rfl (by exact hc) rfl) (j + 1)).trans
    (runSteps_succ (step_pause (.inl rfl) (by exact hc)) j)), rfl, hc, rfl, rfl, rfl, by simp [hbus]⟩

end

/-- Garbage for ever, R125 (a): one step for each answer. -/
theorem exists_run_of_garbage {c : Cfg} {g : Byte} (ho : g.getLsbD 7 = false) (hg : 64 < g.toNat) (k : Nat) :
    ∀ {s : State}, s.st = .query → s.cfg = some c → s.bus = List.replicate k (.answers g []) →
      ∃ t, runSteps k s = .next t ∧ t.st = .query ∧ t.cur = s.cur ∧ t.empty = s.empty ∧ t.bus = [] := by
  induction k with
  | zero => exact fun hst _ hbus => ⟨_, rfl, hst, rfl, rfl, hbus⟩
  | succ k ih =>
    intro s hst hc hbus
    have hcount : 64 < statusCount g := by rwa [(statusCount_of_no_overflow g ho).1]
    obtain ⟨u, hround, hu, hcu, hcur, -, hempty, hrest⟩ := backAtQuery_of_garbage hst hc hbus ho hcount
    obtain ⟨t, hrun, ht, hcurt, hemptyt, hbust⟩ := ih hu hcu hrest
    exact ⟨t, (hround k).trans hrun, ht, hcurt.trans hcur, hemptyt.trans hempty, hbust⟩

/-- A count of exactly 1 for ever, R125 (b): three steps for each answer. -/
theorem exists_run_of_ones {c : Cfg} (k : Nat) : ∀ {s : State}, s.st = .query → s.cfg = some c → s.cur + 1 < s.tgt →
    s.bus = List.replicate k (.answers 1 []) →
      ∃ t, runSteps (3 * k) s = .next t ∧ t.st = .query ∧ t.cur = s.cur ∧ (1 ≤ k → t.empty = 0) ∧
        (s.empty = 0 → t.empty = 0) ∧ t.bus = [] := by
  induction k with
  | zero => exact fun hst _ _ hbus => ⟨_, rfl, hst, rfl, nofun, id, hbus⟩
  | succ k ih =>
    intro s hst hc hlt hbus
    obtain ⟨u, hround, hu, hcu, hcur, htgt, hempty, hrest⟩ := backAtQuery_of_one hst hc hbus hlt
    obtain ⟨t, hrun, ht, hcurt, -, hemptyt, hbust⟩ := ih hu hcu (by rwa [hcur, htgt]) hrest
    exact ⟨t, (hround (3 * k)).trans hrun, ht, hcurt.trans hcur, fun _ => hemptyt hempty, fun _ => hemptyt hempty, hbust⟩

/-- 0 and 1 alternating, R125 (c): the 1 sets the count of empties back before the budget is spent. -/
theorem exists_run_of_alternation {c : Cfg} (hbudget : 2 ≤ c.emptyBudget.toNat) (k : Nat) : ∀ {s : State},
    s.st = .query → s.cfg = some c → s.cur + 1 < s.tgt → s.empty = 0 →
    s.bus = (List.replicate k [.answers 0 [], .answers 1 []]).flatten →
      ∃ t, runSteps (5 * k) s = .next t ∧ t.st = .query ∧ t.cur = s.cur ∧ t.empty = 0 ∧ t.bus = [] := by
  induction k with
  | zero => exact fun hst _ _ he hbus => ⟨_, rfl, hst, rfl, he, hbus⟩
  | succ k ih =>
    intro s hst hc hlt he hbus
    obtain ⟨u, hround, hu, hcu, hcur, htgt, -, hrest⟩ := backAtQuery_of_zero hst hc hbus (by omega)
    obtain ⟨v, hround', hv, hcv, hcur', htgt', hempty', hrest'⟩ := backAtQuery_of_one hu hcu hrest (by omega)
    obtain ⟨t, hrun, ht, hcurt, hemptyt, hbust⟩ := ih hv hcv (by omega) hempty' hrest'
    exact ⟨t, (hround (5 * k + 3)).trans ((hround' (5 * k)).trans hrun), ht, by omega, hemptyt, hbust⟩

/-- Settles O49, each clause by induction on the number of rounds. -/
theorem receiveNeedNotTerminate : Obligations.ReceiveNeedNotTerminate := by
  intro s c k hst hc
  refine ⟨fun g ho hg hbus => exists_run_of_garbage ho hg k hst hc hbus, fun hlt hbus => ?_,
    fun hlt he hbudget hbus => exists_run_of_alternation hbudget k hst hc hlt he hbus⟩
  obtain ⟨t, hrun, ht, hcur, hempty, -, hbust⟩ := exists_run_of_ones k hst hc hlt hbus
  exact ⟨t, hrun, ht, hcur, hempty, hbust⟩

/-! ## The caller -/

/-- Any error but a bus fault starts the next attempt (60_exceptions.md R234, R243). -/
theorem afterReceive_err {cfg : Option Cfg} {e : Cause} (he : e ≠ .busFault) :
    afterReceive cfg (.err e) = .issue .wait [] .waited := by
  cases e with
  | busFault => exact absurd rfl he
  | overflow | invalidLength | receiveTimeout | crcError | codecError | headerMismatch | markerNotFound => rfl

/-- Settles O59: the move is a function of the place in the loop, the configuration and the result. -/
theorem callerFollowsTheLoop : Obligations.CallerFollowsTheLoop := by
  refine ⟨fun s raw => ⟨rfl, fun h => ?_, fun h => ?_, fun h => ?_, fun h => ?_, fun e he h => ?_, fun c hc h => ?_,
    fun f h => ?_, fun e h => ?_⟩, fun l raw hrun hidle hreq hpos hres hcfg => ?_⟩
  · rw [callerMove, h]; rfl
  · rw [callerMove, h]; rfl
  · rw [callerMove, h]; rfl
  · rw [callerMove, h]; rfl
  · rw [callerMove, h, afterReceive_err he]
  · have hmove : callerMove .received s = .issue (strategyInstr c.strategy) raw .decoded := by
      rw [callerMove, h, hc]; rfl
    rw [hmove]
    exact ⟨fun hs => by rw [hs]; rfl, fun hs => by rw [hs]; rfl, fun hs => by rw [hs]; rfl⟩
  · rw [callerMove, h]; rfl
  · rw [callerMove, h]; rfl
  · have hmove : callerMove l.pos l.block = .refuse .cfgNotSet := by rw [hpos, callerMove, hres, hcfg]; rfl
    simp [loopStep, hrun, hidle, hreq, hmove, applyMove]

end Sys2Proof.Machine
end
